-- ==== Sys2Proof/Word.lean ====
section
/-! DEFINITION. The word types of the I2C master transaction engine (MTE).

The spec's registers are 32-bit words (10_state.md R30, R40), the buffer is a sequence of bytes
(20_memory.md R60, R66), and a register-interface access is named by a 41-bit key (30_encoding.md R99). -/

namespace Sys2Proof

/-- One byte of the buffer port, of TXDR or of RXDR. -/
abbrev Byte := BitVec 8

/-- One command register or controller register. -/
abbrev Word := BitVec 32

/-- The access key of 30_encoding.md R99: bit 40 is 1 for a write, bits 39..32 are the offset from
REG_BASE, bits 31..0 are the value written (0 for a read). -/
abbrev Key := BitVec 41

end Sys2Proof
end

