-- ==== Sys2Proof/Config.lean ====
section
/-! DEFINITION. The parameters of 00_scope.md R9 and the free values of the environment.

SADDR_W = 7, RADDR_W = 8, COUNT_W = 8 and LEN_W = 32 are types. The parameters that R9 leaves to the
implementation, REGIF_BINDING among them, are one record of plain data that State carries and no step changes, so that
every statement about all states is a statement about all their values. -/

namespace Sys2Proof

/-- The controller's registers (10_state.md R40). CR1, OAR1, OAR2, TIMINGR, TIMEOUTR, PECR and TXDR hold what was last
written. CR2, ISR and RXDR hold what the controller last showed or was last sent: the environment may move them before
each read. ICR is write-only and reads 0 (R44), so it has no storage. -/
structure Controller where
  cr1 : Word
  cr2 : Word
  oar1 : Word
  oar2 : Word
  timingr : Word
  timeoutr : Word
  isr : Word
  pecr : Word
  rxdr : Word
  txdr : Word
  deriving DecidableEq, Repr

/-- Offsets of the controller's registers from REG_BASE (R40), in the eight bits an access key gives them
(30_encoding.md R99). -/
structure Offsets where
  cr1 : Byte
  cr2 : Byte
  oar1 : Byte
  oar2 : Byte
  timingr : Byte
  timeoutr : Byte
  isr : Byte
  icr : Byte
  pecr : Byte
  rxdr : Byte
  txdr : Byte
  deriving DecidableEq, Repr

/-- Where each field of CR2 begins: SADD's seven address bits, RD_WRN, START, STOP, NBYTES' eight bits, AUTOEND (R42). -/
structure ControlBits where
  sadd : Nat
  rdWrn : Nat
  start : Nat
  stop : Nat
  nbytes : Nat
  autoEnd : Nat
  deriving DecidableEq, Repr

/-- The bit of ISR each flag is (R43, 30_encoding.md R97). -/
structure StatusBits where
  busy : Nat
  addr : Nat
  txis : Nat
  rxne : Nat
  tc : Nat
  tcr : Nat
  nackf : Nat
  stopf : Nat
  deriving DecidableEq, Repr

/-- The bits of ICR (R44): NACKCF and STOPCF, and for each other clear bit the bit of ISR it clears. -/
structure ClearBits where
  nackcf : Nat
  stopcf : Nat
  others : List (Nat × Nat)
  deriving DecidableEq, Repr

/-- REGIF_BINDING (00_scope.md R3, R9, 92_eei_decisions.md D24): how the events of R12 reach the controller's registers.
Everything section 4 of 10_state.md states of the layout is a field, so that the layout is replaceable. -/
structure Binding where
  offset : Offsets
  /-- Bytes from REG_BASE to the end of the last register. -/
  window : Nat
  /-- CR1.PE (R41). -/
  pe : Nat
  /-- CR1's interrupt enables and DMA enables (R41, 60_exceptions.md R228). -/
  enables : Word
  cr2 : ControlBits
  isr : StatusBits
  icr : ClearBits
  /-- Where RXDATA begins in RXDR (R45). -/
  rxData : Nat
  /-- Where TXDATA begins in TXDR (R45). -/
  txData : Nat
  /-- The registers after the controller's own reset (R40, 70_reset_and_hazards.md R252). -/
  reset : Controller
  deriving DecidableEq, Repr

/-- NACK_PRIORITY (R9, R121): the flag a poll honours when NACKF and the awaited flag are both set. -/
inductive NackPriority where
  | nackFirst
  | readyFirst
  deriving DecidableEq, Repr

/-- The open parameters of R9. -/
structure Params where
  /-- ADDR_W: a buffer address has this many bits. -/
  addrW : Nat
  /-- ENGINE_BASE: where the host sees CMD, LEN, BUF and STATUS. -/
  engineBase : Word
  /-- REGIF_BINDING: the controller's register layout. -/
  regif : Binding
  /-- REG_BASE: where the controller instance's registers stand. -/
  regBase : Word
  /-- TIMING: what the host writes to TIMINGR at initialisation (R254); no rule reads it. -/
  timing : Word
  /-- NACK_PRIORITY. -/
  nackPriority : NackPriority
  deriving DecidableEq, Repr

/-- FREE VALUE (assumption 7): the status word the environment shows at the read numbered by its argument, where State
lists no answer (00_scope.md R7: every poll returns some set of flags). -/
opaque Config.freeStatus : Nat → Word

/-- FREE VALUE (assumption 7): what a read of CR2 returns where State lists no answer (30_encoding.md R91: `v <- CR2`). -/
opaque Config.freeCtrl : Nat → Word

/-- FREE VALUE (assumption 7): what a read of RXDR returns where State lists no answer (R131: any byte). -/
opaque Config.freeRx : Nat → Word

end Sys2Proof
end

