-- ==== Sys2Proof/Syntax.lean ====
section
/-! DEFINITION. The instructions: one constructor for each row of spec/opcode_table.json.

The three CMD rows are the Public Operations, each a word the host writes to CMD (30_encoding.md R80, R81).
The nine REGIF rows are the kinds of register-interface access the engine performs (R99), which are the
primitives of 40_bus_guard_and_primitives.md R120 to R131. -/

namespace Sys2Proof

/-- Direction of a phase (10_state.md R20: 0 WRITE, 1 READ). -/
inductive Dir where
  | write
  | read
  deriving DecidableEq, Repr

/-- End mode of a phase (R20: 0 SOFTWARE_END, 1 AUTO_END). -/
inductive EndMode where
  | softwareEnd
  | autoEnd
  deriving DecidableEq, Repr

/-- A Transaction Descriptor (R24), less its buffer, which is the memory at E.base. -/
structure Descriptor where
  sadd : BitVec 7
  dir : Dir
  count : Byte
  em : EndMode
  deriving DecidableEq, Repr

/-- The instructions. The three CR2 writes carry the whole CR2 word, because the rows match on START and STOP
alone (R99) and software writes CR2 whole (R90 to R92); its fields are read by `descriptorOf`. -/
inductive Instr where
  /-- BYTE_READ (R190). -/
  | byteRead (sadd : BitVec 7) (raddr : Byte)
  /-- BURST_READ (R191); n and the buffer are in LEN and BUF. -/
  | burstRead (sadd : BitVec 7) (raddr : Byte)
  /-- BURST_WRITE (R192); n and the buffer are in LEN and BUF. -/
  | burstWrite (sadd : BitVec 7) (raddr : Byte)
  /-- POLL_STATUS: the read of ISR (R97, R120). -/
  | pollStatus
  /-- CTRL_READ: the read of CR2 that opens TriggerStart and TriggerStop (R91, R92). -/
  | ctrlRead
  /-- WRITE_CTRL: a write of CR2 with START = STOP = 0 (R90, R125). -/
  | writeCtrl (value : Word)
  /-- TRIGGER_START: a write of CR2 with START = 1, STOP = 0 (R91, R126). -/
  | triggerStart (value : Word)
  /-- TRIGGER_STOP: a write of CR2 with STOP = 1, START = 0 (R92, R127). -/
  | triggerStop (value : Word)
  /-- TX_WRITE: a write of TXDR (R93, R130). -/
  | txWrite (b : Byte)
  /-- RX_READ: a read of RXDR (R94, R131). -/
  | rxRead
  /-- CLEAR_NACK: the write of ICR with NACKCF (R95, R128). -/
  | clearNack
  /-- CLEAR_STOP: the write of ICR with STOPCF (R96, R129). -/
  | clearStop
  deriving DecidableEq, Repr

end Sys2Proof
end

