-- ==== Sys2Proof/WellFormed.lean ====
section
/-! DEFINITION. Well-formed instructions: the three CR2 writes are told apart by START and STOP, as 30_encoding.md R99
says; every other operand is well-formed by its width. And well-formed bindings: the layouts in which the fields of a
register do not overlap, which is what "must match exactly for interoperability" (00_scope.md R3) needs. -/

namespace Sys2Proof

/-- The word with bit `n` alone set; 0 for a bit a word does not have. -/
def bit (n : Nat) : Word := 1#32 <<< n

/-- START in CR2 (30_encoding.md R91). -/
def startBit (b : Binding) : Word := bit b.cr2.start

/-- STOP in CR2 (R92). -/
def stopBit (b : Binding) : Word := bit b.cr2.stop

/-- START and STOP in CR2. -/
def triggerMask (b : Binding) : Word := startBit b ||| stopBit b

/-- The encoding admits the instruction's operands. -/
def Instr.wellFormed (b : Binding) : Instr → Bool
  | .byteRead _ _ => true
  | .burstRead _ _ => true
  | .burstWrite _ _ => true
  | .pollStatus => true
  | .ctrlRead => true
  | .writeCtrl value => value &&& triggerMask b == 0
  | .triggerStart value => value &&& triggerMask b == startBit b
  | .triggerStop value => value &&& triggerMask b == stopBit b
  | .txWrite _ => true
  | .rxRead => true
  | .clearNack => true
  | .clearStop => true

/-- The registers' offsets, in R40's order. -/
def Offsets.all (o : Offsets) : List Byte :=
  [o.cr1, o.cr2, o.oar1, o.oar2, o.timingr, o.timeoutr, o.isr, o.icr, o.pecr, o.rxdr, o.txdr]

/-- The fields of CR2 the events write: first bit and width. -/
def ControlBits.fields (c : ControlBits) : List (Nat × Nat) :=
  [(c.sadd, 7), (c.rdWrn, 1), (c.start, 1), (c.stop, 1), (c.nbytes, 8), (c.autoEnd, 1)]

/-- Two fields share no bit. -/
def Apart (f g : Nat × Nat) : Prop := f.1 + f.2 ≤ g.1 ∨ g.1 + g.2 ≤ f.1

/-- The bits of ISR, one a flag. -/
def StatusBits.all (t : StatusBits) : List Nat :=
  [t.busy, t.addr, t.txis, t.rxne, t.tc, t.tcr, t.nackf, t.stopf]

/-- A layout: registers at distinct offsets on word boundaries inside the window, every field inside its register and no
two of one register sharing a bit. -/
structure Binding.WellFormed (b : Binding) : Prop where
  offsets : b.offset.all.Nodup
  inWindow : ∀ o ∈ b.offset.all, o.toNat % 4 = 0 ∧ o.toNat + 4 ≤ b.window
  control : b.cr2.fields.Pairwise Apart
  controlFits : ∀ f ∈ b.cr2.fields, f.1 + f.2 ≤ 32
  flags : b.isr.all.Nodup
  flagsFit : ∀ n ∈ b.isr.all, n < 32
  clears : b.icr.nackcf ≠ b.icr.stopcf ∧ ∀ c ∈ b.icr.others, c.1 ≠ b.icr.nackcf ∧ c.1 ≠ b.icr.stopcf
  clearsFit : b.icr.nackcf < 32 ∧ b.icr.stopcf < 32
  dataFits : b.rxData + 8 ≤ 32 ∧ b.txData + 8 ≤ 32
  enable : b.pe < 32 ∧ b.enables.getLsbD b.pe = false

end Sys2Proof
end

