-- ==== Sys2Proof/Decode.lean ====
section
/-! DEFINITION. The default binding, the decoder and the encoder.

A code is a 32-bit command word (30_encoding.md R80) or a 41-bit access key (R99). As bytes, least significant
first (20_memory.md R67), a command word is four bytes and an access key six, with bits 47..41 zero: the two
lengths tell them apart (DESIGN CHOICE, assumption 3: R99 gives the key no byte form). -/

namespace Sys2Proof

/-- The default REGIF_BINDING: the STM32F3 I2C layout of 10_state.md R40 to R47 (UNVERIFIED, assumption 1). -/
def Binding.stm32f3 : Binding where
  offset :=
    { cr1 := 0x00, cr2 := 0x04, oar1 := 0x08, oar2 := 0x0C, timingr := 0x10, timeoutr := 0x14, isr := 0x18, icr := 0x1C,
      pecr := 0x20, rxdr := 0x24, txdr := 0x28 }
  window := 0x2C
  pe := 0
  enables := 0x0000C0FE
  cr2 := { sadd := 1, rdWrn := 10, start := 13, stop := 14, nbytes := 16, autoEnd := 25 }
  isr := { busy := 15, addr := 3, txis := 1, rxne := 2, tc := 6, tcr := 7, nackf := 4, stopf := 5 }
  icr := { nackcf := 4, stopcf := 5, others := [(3, 3), (8, 8), (9, 9), (10, 10), (11, 11), (12, 12), (13, 13)] }
  rxData := 0
  txData := 0
  reset :=
    { cr1 := 0, cr2 := 0, oar1 := 0, oar2 := 0, timingr := 0, timeoutr := 0, isr := 0x00000001, pecr := 0, rxdr := 0,
      txdr := 0 }

/-- Why a code is rejected. -/
inductive Reject where
  /-- A command word with a bit of [31:24], [15] or [7:4] set (R83). -/
  | reservedBits
  /-- A command word whose OP is 0x0 or 0x4 to 0xF (R81). -/
  | reservedOp
  /-- An access key that matches no REGIF row (R99). -/
  | noSuchAccess
  /-- Six bytes with a bit above bit 40 set. -/
  | notAKey
  /-- Neither four bytes nor six. -/
  | badLength
  deriving DecidableEq, Repr

/-- A code, before decoding. -/
inductive Code where
  | cmd (w : Word)
  | access (k : Key)
  deriving DecidableEq, Repr

/-- Decoding of the command word, R83. -/
def decodeCmd (w : Word) : Except Reject Instr :=
  if w.extractLsb' 24 8 ≠ 0 ∨ w.extractLsb' 15 1 ≠ 0 ∨ w.extractLsb' 4 4 ≠ 0 then .error .reservedBits
  else if w.extractLsb' 0 4 = 0x1#4 then .ok (.byteRead (w.extractLsb' 8 7) (w.extractLsb' 16 8))
  else if w.extractLsb' 0 4 = 0x2#4 then .ok (.burstRead (w.extractLsb' 8 7) (w.extractLsb' 16 8))
  else if w.extractLsb' 0 4 = 0x3#4 then .ok (.burstWrite (w.extractLsb' 8 7) (w.extractLsb' 16 8))
  else .error .reservedOp

/-- The access key of R99. -/
def accessKey (w : BitVec 1) (offset : Byte) (value : Word) : Key :=
  w.setWidth 41 <<< 40 ||| offset.setWidth 41 <<< 32 ||| value.setWidth 41

/-- VALUE of a key, K[31:0]. -/
def keyValue (k : Key) : Word := k.extractLsb' 0 32

/-- One REGIF row: a key matches when `key &&& mask = pattern` (R99). -/
structure KeyRow where
  pattern : Key
  mask : Key
  deriving DecidableEq, Repr

/-- The key matches the row. -/
def KeyRow.hits (r : KeyRow) (k : Key) : Bool := k &&& r.mask == r.pattern

/-- The row of a read of the register at `offset`: the VALUE of a read is not matched. -/
def readRow (offset : Byte) : KeyRow := ⟨accessKey 0 offset 0, accessKey 1 0xFF 0⟩

/-- The row of a write of the register at `offset` whose value has, under `mask`, the bits `value`. -/
def writeRow (offset : Byte) (mask value : Word) : KeyRow := ⟨accessKey 1 offset value, accessKey 1 0xFF mask⟩

/-- The word TxWrite writes: the byte in TXDATA, every other bit 0 (R93). -/
def txWord (b : Binding) (x : Byte) : Word := x.setWidth 32 <<< b.txData

/-- NACKCF, the word ClearNack writes to ICR (R95). -/
def icrNack (b : Binding) : Word := bit b.icr.nackcf

/-- STOPCF, the word ClearStop writes to ICR (R96). -/
def icrStop (b : Binding) : Word := bit b.icr.stopcf

def rowPollStatus (b : Binding) : KeyRow := readRow b.offset.isr
def rowCtrlRead (b : Binding) : KeyRow := readRow b.offset.cr2
def rowWriteCtrl (b : Binding) : KeyRow := writeRow b.offset.cr2 (triggerMask b) 0
def rowTriggerStart (b : Binding) : KeyRow := writeRow b.offset.cr2 (triggerMask b) (startBit b)
def rowTriggerStop (b : Binding) : KeyRow := writeRow b.offset.cr2 (triggerMask b) (stopBit b)
def rowTxWrite (b : Binding) : KeyRow := writeRow b.offset.txdr (~~~txWord b 0xFF) 0
def rowRxRead (b : Binding) : KeyRow := readRow b.offset.rxdr
def rowClearNack (b : Binding) : KeyRow := writeRow b.offset.icr 0xFFFFFFFF (icrNack b)
def rowClearStop (b : Binding) : KeyRow := writeRow b.offset.icr 0xFFFFFFFF (icrStop b)

/-- The nine REGIF rows of R99, in the order of spec/opcode_table.json, which lists them for the default binding. -/
def keyRows (b : Binding) : List KeyRow :=
  [rowPollStatus b, rowCtrlRead b, rowWriteCtrl b, rowTriggerStart b, rowTriggerStop b, rowTxWrite b, rowRxRead b,
    rowClearNack b, rowClearStop b]

/-- Decoding of an access key, R99. -/
def decodeKey (b : Binding) (k : Key) : Except Reject Instr :=
  if (rowPollStatus b).hits k then .ok .pollStatus
  else if (rowCtrlRead b).hits k then .ok .ctrlRead
  else if (rowWriteCtrl b).hits k then .ok (.writeCtrl (keyValue k))
  else if (rowTriggerStart b).hits k then .ok (.triggerStart (keyValue k))
  else if (rowTriggerStop b).hits k then .ok (.triggerStop (keyValue k))
  else if (rowTxWrite b).hits k then .ok (.txWrite ((keyValue k).extractLsb' b.txData 8))
  else if (rowRxRead b).hits k then .ok .rxRead
  else if (rowClearNack b).hits k then .ok .clearNack
  else if (rowClearStop b).hits k then .ok .clearStop
  else .error .noSuchAccess

/-- Decoding of a code. -/
def decode (b : Binding) : Code → Except Reject Instr
  | .cmd w => decodeCmd w
  | .access k => decodeKey b k

/-- Decoding of bytes, total on every list. -/
def decodeBytes (b : Binding) : List Byte → Except Reject Instr
  | [b0, b1, b2, b3] =>
    decodeCmd (b3.setWidth 32 <<< 24 ||| b2.setWidth 32 <<< 16 ||| b1.setWidth 32 <<< 8 ||| b0.setWidth 32)
  | [b0, b1, b2, b3, b4, b5] =>
    if 2 ≤ b5.toNat then .error .notAKey
    else
      decodeKey b (b5.setWidth 41 <<< 40 ||| b4.setWidth 41 <<< 32 ||| b3.setWidth 41 <<< 24 |||
        b2.setWidth 41 <<< 16 ||| b1.setWidth 41 <<< 8 ||| b0.setWidth 41)
  | _ => .error .badLength

/-- The command word of R80, `00000000 AAAAAAAA 0SSSSSSS 0000PPPP`: `OP | slave << 8 | addr << 16` (R86). -/
def cmdWord (op : BitVec 4) (sadd : BitVec 7) (raddr : Byte) : Word :=
  op.setWidth 32 ||| sadd.setWidth 32 <<< 8 ||| raddr.setWidth 32 <<< 16

/-- The code of an instruction: R80 and R81 for a command, R90 to R97 and R99 for an access. -/
def encode (b : Binding) : Instr → Code
  | .byteRead sadd raddr => .cmd (cmdWord 0x1 sadd raddr)
  | .burstRead sadd raddr => .cmd (cmdWord 0x2 sadd raddr)
  | .burstWrite sadd raddr => .cmd (cmdWord 0x3 sadd raddr)
  | .pollStatus => .access (accessKey 0 b.offset.isr 0)
  | .ctrlRead => .access (accessKey 0 b.offset.cr2 0)
  | .writeCtrl value => .access (accessKey 1 b.offset.cr2 value)
  | .triggerStart value => .access (accessKey 1 b.offset.cr2 value)
  | .triggerStop value => .access (accessKey 1 b.offset.cr2 value)
  | .txWrite x => .access (accessKey 1 b.offset.txdr (txWord b x))
  | .rxRead => .access (accessKey 0 b.offset.rxdr 0)
  | .clearNack => .access (accessKey 1 b.offset.icr (icrNack b))
  | .clearStop => .access (accessKey 1 b.offset.icr (icrStop b))

/-- The instruction is a row of format CMD, which the host writes to CMD. -/
def Instr.isCommand : Instr → Bool
  | .byteRead _ _ => true
  | .burstRead _ _ => true
  | .burstWrite _ _ => true
  | .pollStatus => false
  | .ctrlRead => false
  | .writeCtrl _ => false
  | .triggerStart _ => false
  | .triggerStop _ => false
  | .txWrite _ => false
  | .rxRead => false
  | .clearNack => false
  | .clearStop => false

/-- The bytes of a code, least significant first (20_memory.md R67). -/
def Code.bytes : Code → List Byte
  | .cmd w => [w.extractLsb' 0 8, w.extractLsb' 8 8, w.extractLsb' 16 8, w.extractLsb' 24 8]
  | .access k =>
    [k.extractLsb' 0 8, k.extractLsb' 8 8, k.extractLsb' 16 8, k.extractLsb' 24 8, k.extractLsb' 32 8,
      (k.extractLsb' 40 1).setWidth 8]

/-- The code whose bits are `w`, in the numbering of spec/opcode_table.json: at most 32 bits is a command word,
more is an access key. -/
def tableCode (nbits w : Nat) : Code :=
  if nbits ≤ 32 ∧ w < 2 ^ 32 then .cmd (BitVec.ofNat 32 w) else .access (BitVec.ofNat 41 w)

/-- The same bits laid out as bytes: four for a command word, six for an access key. -/
def tableBytes (nbits w : Nat) : List Byte :=
  if nbits ≤ 32 ∧ w < 2 ^ 32 then
    [BitVec.ofNat 8 w, BitVec.ofNat 8 (w / 2 ^ 8), BitVec.ofNat 8 (w / 2 ^ 16), BitVec.ofNat 8 (w / 2 ^ 24)]
  else
    [BitVec.ofNat 8 w, BitVec.ofNat 8 (w / 2 ^ 8), BitVec.ofNat 8 (w / 2 ^ 16), BitVec.ofNat 8 (w / 2 ^ 24),
      BitVec.ofNat 8 (w / 2 ^ 32), BitVec.ofNat 8 (w / 2 ^ 40)]

/-- The instruction the decoder reads from the word `w` of `nbits` bits, whose access rows are the default binding's. -/
def decodeTableWord (nbits w : Nat) : Option Instr :=
  match decodeBytes .stm32f3 (tableBytes nbits w) with
  | .ok i => some i
  | .error _ => none

end Sys2Proof
end

