-- ==== Sys2Proof/Machine/State.lean ====
section
/-! DEFINITION. The state of the machine: the engine's registers (10_state.md R20), the command registers (R30), the
controller's registers (R40), the buffer memory (20_memory.md R60), the oracle of the environment (00_scope.md R7),
the host's pending actions, and the record of the port accesses (R13).

The engine (the MTE) is the hardware. The controller, the bus and the slave are its environment, an unconstrained
oracle: whatever the environment may answer is a value of `Env`, so a statement about all states is a statement
about all answers. -/

namespace Sys2Proof.Machine

/-- The FSM states of R22, in the order of their 4-bit codes 0 to 8. -/
inductive EngState where
  | idle
  | awaitBusFree
  | awaitAddrAck
  | awaitByteReady
  | awaitTransferComplete
  | awaitStop
  | done
  | aborted
  | illegal
  deriving DecidableEq, Repr

/-- E.op (R20): 0 at reset, 1 BYTE_READ, 2 BURST_READ, 3 BURST_WRITE. -/
inductive Op where
  | none
  | byteRead
  | burstRead
  | burstWrite
  deriving DecidableEq, Repr

/-- E.phase (R20): 0 is phase 1, 1 is phase 2 of Read-register. -/
inductive Phase where
  | first
  | second
  deriving DecidableEq, Repr

/-- E.stop_cause (R20): 0 COMPLETE, 1 ABORT. -/
inductive StopCause where
  | complete
  | abort
  deriving DecidableEq, Repr

/-- E.cur (R20): the phase being run. -/
structure Current where
  dir : Dir
  count : Byte
  em : EndMode
  deriving DecidableEq, Repr

/-- The internal registers of R20. `base` holds ADDR_W bits, zero-extended to 32. -/
structure Engine where
  st : EngState
  op : Op
  sadd : BitVec 7
  raddr : Byte
  n : Word
  base : Word
  phase : Phase
  cur : Current
  idx : Byte
  stopCause : StopCause
  data : Byte
  dataValid : Bool
  deriving DecidableEq, Repr

/-- MODEL'S OWN (DESIGN CHOICE, assumption 7). The oracle of R7: the environment's coming answers to reads of ISR, of CR2
and of RXDR, oldest first. Where a list is empty the answer is a free value of Config, numbered by `asked`. -/
structure Env where
  status : List Word
  ctrl : List Word
  rx : List Word
  asked : Nat
  deriving DecidableEq, Repr

/-- The flags a poll returns (R36). -/
structure Flags where
  busy : Bool
  addr : Bool
  txis : Bool
  rxne : Bool
  tc : Bool
  tcr : Bool
  nackf : Bool
  stopf : Bool
  deriving DecidableEq, Repr

/-- One port access, an item of the event trace of R13. `ctrlRead` is the CR2 read that opens ST and SP at register
level (R91, R92); R13 writes it as part of them (assumption 19). -/
inductive Event where
  /-- `RS->{flags}` -/
  | poll (flags : Flags)
  /-- The read of CR2 that opens a trigger. -/
  | ctrlRead (value : Word)
  /-- `WC(sadd,dir,count,em)` -/
  | writeCtrl (d : Descriptor)
  /-- `ST` -/
  | start
  /-- `SP` -/
  | stop
  /-- `TX(b)` -/
  | tx (b : Byte)
  /-- `RX->b` -/
  | rx (b : Byte)
  /-- `CN` -/
  | clearNack
  /-- `CS` -/
  | clearStop
  /-- `MR(a)->b` -/
  | memRead (a : Nat) (b : Byte)
  /-- `MW(a,b)` -/
  | memWrite (a : Nat) (b : Byte)
  deriving DecidableEq, Repr

/-- Width of a host access. -/
inductive Size where
  | byte
  | half
  | word
  deriving DecidableEq, Repr

/-- MODEL'S OWN (DESIGN CHOICE, assumption 8). What the world outside the engine does next: an input of the step. -/
inductive Input where
  /-- The host reads `size` bytes at `addr`. -/
  | read (addr : Word) (size : Size)
  /-- The host writes the low `size` bytes of `value` at `addr`. -/
  | write (addr : Word) (size : Size) (value : Word)
  /-- One register-interface access of the engine's port, given by its key (R99), performed by itself. -/
  | access (k : Key)
  /-- The host takes STATUS.DATA as the result of BYTE_READ (R87). -/
  | takeData
  /-- The host does nothing while the engine takes a step. -/
  | tick
  /-- The host's WAIT (30_encoding.md R86): read STATUS until BUSY = 0. -/
  | wait
  /-- Reset of the engine (70_reset_and_hazards.md R250, R251). -/
  | reset
  /-- The controller's own reset (R252). -/
  | resetController
  deriving DecidableEq, Repr

/-- Where the machine stops with a fault. -/
inductive Fault where
  /-- Raised by the host's taking of STATUS.DATA while DATA_VALID = 0 (93_implementation_defined.md U6: `fault`;
  assumption 12). Safe: the hardware returns a leftover. -/
  | dataNotValid
  /-- Raised by a host access outside the 2^ADDR_W bytes of the buffer port (20_memory.md R60). Safe. -/
  | addressOutside
  /-- Raised by the Bus Guard with E.op = 0, where R141 gives no descriptor (assumption 14). Safe, and no reachable state
  raises it (Obligations.StepKeepsInvariant rules out the state). -/
  | noOperation
  deriving DecidableEq, Repr

/-- Where the model gives no meaning. -/
inductive Refusal where
  /-- An instruction with no meaning yet. No arm of exec answers it. -/
  | notModelled (mnemonic : String)
  /-- Raised by a host access to a command or controller register that is not one aligned 32-bit word (20_memory.md
  R67, U13: `refuse`; assumption 10). Safe. -/
  | narrowOrUnaligned
  /-- Raised by a host access to the buffer of the running operation (R62, U5: `refuse`; assumption 10). Safe. -/
  | bufferBorrowed
  /-- Raised by a host access to the controller's registers while the engine is busy (70_reset_and_hazards.md R261;
  assumption 10). Safe. -/
  | controllerOwned
  /-- Raised by a host write of CMD while the engine is busy (42_sequencer_and_operations.md R181, R261, U4: `refuse`;
  assumption 6). Safe. -/
  | commandWhileBusy
  /-- Raised by a host write of CMD that would start a burst whose buffer has a byte in the command registers or in the
  controller's registers (20_memory.md R69, U14: `refuse`; assumption 9), and by the engine's access to such a byte, which
  no state of the invariant performs. Safe. -/
  | bufferOverlapsRegisters
  /-- Raised by a host write of CMD that would start a burst whose buffer runs past 2^ADDR_W (U14: `refuse`;
  assumption 9). Safe. -/
  | bufferWraps
  /-- Raised by a host write of TIMINGR while CR1.PE = 1 (R254: it must be written while PE = 0;
  assumption 11). Safe. -/
  | timingWhileEnabled
  /-- Raised by a host write of ISR, PECR or RXDR (R43, R45, R47: read-only; assumption 11). Safe. -/
  | readOnlyController
  /-- Raised by an `access` input whose key matches no row of R99. Safe. -/
  | noSuchAccess
  deriving DecidableEq, Repr

/-- The buffer memory: the bytes that differ from what an unlisted address reads as, by rising address. -/
abbrev Memory := List Host.Cell

/-- The state of the machine. -/
structure State where
  /-- The parameters of R9; no step changes them. -/
  params : Params
  /-- E (R20). -/
  eng : Engine
  /-- CMD (R30, R31). -/
  cmd : Word
  /-- LEN (R30, R32). -/
  len : Word
  /-- BUF (R30, R32). -/
  buf : Word
  /-- The controller's registers (R40). -/
  ctl : Controller
  /-- The buffer memory (R60). -/
  mem : Memory
  /-- The environment's answers (R7). -/
  env : Env
  /-- The outside world's coming actions, oldest first. -/
  inputs : List Input
  /-- The event trace (R13), oldest first. -/
  trace : List Event
  /-- The values the host's reads returned, oldest first. -/
  hostReads : List Word
  deriving DecidableEq, Repr

/-- R20, R250: every internal register is 0, E.st = IDLE. -/
def Engine.reset : Engine where
  st := .idle
  op := .none
  sadd := 0
  raddr := 0
  n := 0
  base := 0
  phase := .first
  cur := { dir := .write, count := 0, em := .softwareEnd }
  idx := 0
  stopCause := .complete
  data := 0
  dataValid := false

/-- The parameters State.reset carries. ADDR_W, REGIF_BINDING, REG_BASE and NACK_PRIORITY are R9's defaults;
ENGINE_BASE and TIMING are OPEN in R9 and are DESIGN CHOICE values (assumption 2): no statement rests on them. -/
def Params.standard : Params where
  addrW := 32
  engineBase := 0x50000000
  regif := .stm32f3
  regBase := 0x40005400
  timing := 0
  nackPriority := .nackFirst

/-- The machine right after reset (R250, R252): no answer listed, nothing pending, nothing performed
(assumptions 2 and 13). -/
def State.reset : State where
  params := Params.standard
  eng := Engine.reset
  cmd := 0
  len := 0
  buf := 0
  ctl := Binding.stm32f3.reset
  mem := []
  env := { status := [], ctrl := [], rx := [], asked := 0 }
  inputs := []
  trace := []
  hostReads := []

/-! Updates of one field. -/

def State.setEng (s : State) (e : Engine) : State := { s with eng := e }
def State.setCmd (s : State) (w : Word) : State := { s with cmd := w }
def State.setLen (s : State) (w : Word) : State := { s with len := w }
def State.setBuf (s : State) (w : Word) : State := { s with buf := w }
def State.setCtl (s : State) (c : Controller) : State := { s with ctl := c }
def State.setMem (s : State) (m : Memory) : State := { s with mem := m }
def State.setEnv (s : State) (e : Env) : State := { s with env := e }
def State.setInputs (s : State) (l : List Input) : State := { s with inputs := l }

/-- One more port access on the trace. -/
def State.emit (s : State) (ev : Event) : State := { s with trace := s.trace ++ [ev] }

/-- One more value returned to the host. -/
def State.answerHost (s : State) (w : Word) : State := { s with hostReads := s.hostReads ++ [w] }

end Sys2Proof.Machine
end

