-- ==== Sys2Proof/Machine/Flags.lean ====
section
/-! DEFINITION. The flag computations: the flag set of a poll (30_encoding.md R97), the selection between NACK and
the awaited flag (40_bus_guard_and_primitives.md R121), and the STATUS word (10_state.md R34). -/

namespace Sys2Proof.Machine

/-- The flags of an ISR value, R97: the bits the binding names; every other bit is discarded. -/
def flagsOf (b : Binding) (isr : Word) : Flags where
  busy := isr.getLsbD b.isr.busy
  addr := isr.getLsbD b.isr.addr
  txis := isr.getLsbD b.isr.txis
  rxne := isr.getLsbD b.isr.rxne
  tc := isr.getLsbD b.isr.tc
  tcr := isr.getLsbD b.isr.tcr
  nackf := isr.getLsbD b.isr.nackf
  stopf := isr.getLsbD b.isr.stopf

/-- What a wait decides from one poll (R121). -/
inductive Selection where
  | nack
  | ready
  | none
  deriving DecidableEq, Repr

/-- `Sel(s, X)` of R121, from NACKF and X in the one poll. -/
def select (p : NackPriority) (nackf awaited : Bool) : Selection :=
  match p with
  | .nackFirst => if nackf then .nack else if awaited then .ready else .none
  | .readyFirst => if awaited then .ready else if nackf then .nack else .none

/-- The 4-bit code of an FSM state, R22. -/
def EngState.code : EngState → BitVec 4
  | .idle => 0
  | .awaitBusFree => 1
  | .awaitAddrAck => 2
  | .awaitByteReady => 3
  | .awaitTransferComplete => 4
  | .awaitStop => 5
  | .done => 6
  | .aborted => 7
  | .illegal => 8

/-- The busy states are codes 1 to 5 (R22); the others are quiescent. -/
def EngState.busy : EngState → Bool
  | .idle => false
  | .awaitBusFree => true
  | .awaitAddrAck => true
  | .awaitByteReady => true
  | .awaitTransferComplete => true
  | .awaitStop => true
  | .done => false
  | .aborted => false
  | .illegal => false

/-- The code of E.op, the OP field of its command (R20, 30_encoding.md R81). -/
def Op.code : Op → BitVec 4
  | .none => 0
  | .byteRead => 1
  | .burstRead => 2
  | .burstWrite => 3

def Phase.code : Phase → BitVec 1
  | .first => 0
  | .second => 1

def StopCause.code : StopCause → BitVec 1
  | .complete => 0
  | .abort => 1

/-- STATUS, R34: `STATE | BUSY << 4 | DATA_VALID << 5 | PHASE << 6 | STOP_CAUSE << 7 | DATA << 8 | IDX << 16`, with
bits 31..24 zero. -/
def statusWord (e : Engine) : Word :=
  e.st.code.setWidth 32 ||| (BitVec.ofBool e.st.busy).setWidth 32 <<< 4 |||
    (BitVec.ofBool e.dataValid).setWidth 32 <<< 5 ||| e.phase.code.setWidth 32 <<< 6 |||
    e.stopCause.code.setWidth 32 <<< 7 ||| e.data.setWidth 32 <<< 8 ||| e.idx.setWidth 32 <<< 16

end Sys2Proof.Machine
end

