-- ==== Sys2Proof/Machine/Operands.lean ====
section
/-! DEFINITION. The operand forms: the CR2 word of a descriptor and back (30_encoding.md R90), the descriptors of the
phases (41_transaction_engine.md R141), and the buffer addresses (20_memory.md R60). -/

namespace Sys2Proof.Machine

/-- RD_WRN: 0 WRITE, 1 READ (R90). -/
def dirBit : Dir → BitVec 1
  | .write => 0
  | .read => 1

/-- AUTOEND: 1 AUTO_END, 0 SOFTWARE_END (R90). -/
def autoEndBit : EndMode → BitVec 1
  | .softwareEnd => 0
  | .autoEnd => 1

/-- The CR2 word WriteCtrl writes, R90: AUTOEND, NBYTES, RD_WRN and SADD in their places, with RELOAD, STOP, START,
ADD10 and every other bit 0 (`em << 25 | count << 16 | dir << 10 | sadd << 1` in the default binding). -/
def ctrlWord (b : Binding) (d : Descriptor) : Word :=
  (autoEndBit d.em).setWidth 32 <<< b.cr2.autoEnd ||| d.count.setWidth 32 <<< b.cr2.nbytes |||
    (dirBit d.dir).setWidth 32 <<< b.cr2.rdWrn ||| d.sadd.setWidth 32 <<< b.cr2.sadd

/-- The descriptor fields of a CR2 word: the address bits of SADD, RD_WRN, NBYTES, AUTOEND (10_state.md R42). -/
def descriptorOf (b : Binding) (cr2 : Word) : Descriptor where
  sadd := cr2.extractLsb' b.cr2.sadd 7
  dir := if cr2.getLsbD b.cr2.rdWrn then .read else .write
  count := cr2.extractLsb' b.cr2.nbytes 8
  em := if cr2.getLsbD b.cr2.autoEnd then .autoEnd else .softwareEnd

/-- The ISR bit that one bit of ICR clears, when `value` has that bit of ICR set. -/
def clearedBit (value : Word) (c : Nat × Nat) : Word := if value.getLsbD c.1 then bit c.2 else 0

/-- The bits of ISR that a write of `value` to ICR clears (10_state.md R44: a 1 clears the flag, a 0 has no effect). -/
def clearedBits (b : Binding) (value : Word) : Word :=
  ((b.icr.nackcf, b.isr.nackf) :: (b.icr.stopcf, b.isr.stopf) :: b.icr.others).foldr
    (fun c m => clearedBit value c ||| m) 0

/-- Phase1(E.op) of R141; none for E.op = 0. -/
def phase1 (e : Engine) : Option Descriptor :=
  match e.op with
  | .none => none
  | .byteRead => some { sadd := e.sadd, dir := .write, count := 1, em := .softwareEnd }
  | .burstRead => some { sadd := e.sadd, dir := .write, count := 1, em := .softwareEnd }
  | .burstWrite => some { sadd := e.sadd, dir := .write, count := e.n.setWidth 8 + 1, em := .autoEnd }

/-- Phase2(E.op) of R141; none for BURST_WRITE. -/
def phase2 (e : Engine) : Option Descriptor :=
  match e.op with
  | .none => none
  | .byteRead => some { sadd := e.sadd, dir := .read, count := 1, em := .autoEnd }
  | .burstRead => some { sadd := e.sadd, dir := .read, count := e.n.setWidth 8, em := .autoEnd }
  | .burstWrite => none

/-- `(E.base + i) mod 2^ADDR_W` (R60). -/
def bufferAddr (p : Params) (e : Engine) (i : Nat) : Nat := (e.base.toNat + i) % 2 ^ p.addrW

/-- `BUF[ADDR_W-1:0]`, zero-extended (30_encoding.md R82). -/
def baseOf (p : Params) (buf : Word) : Word := BitVec.ofNat 32 (buf.toNat % 2 ^ p.addrW)

/-- Bytes of the command registers' window (R30). -/
def engineWindow : Nat := 0x10

/-- The byte at `a` is in the window of `size` bytes at `base`. -/
def inWindow (base : Word) (size : Nat) (a : Word) : Bool := decide ((a - base).toNat < size)

/-- The byte at `a` belongs to the command registers or to the controller's registers (20_memory.md R69). -/
def inRegisters (p : Params) (a : Nat) : Bool :=
  inWindow p.engineBase engineWindow (BitVec.ofNat 32 a) || inWindow p.regBase p.regif.window (BitVec.ofNat 32 a)

/-- One of the `n` bytes of a buffer at `base` lies in a register window (R69). -/
def overlapsRegisters (p : Params) (base n : Nat) : Bool :=
  (List.range n).any fun i => inRegisters p ((base + i) % 2 ^ p.addrW)

/-- `a` is one of the addresses `(E.base + i) mod 2^ADDR_W` with i < n (20_memory.md R61). -/
def inBuffer (p : Params) (e : Engine) (a : Nat) : Bool :=
  decide ((a + (2 ^ p.addrW - e.base.toNat % 2 ^ p.addrW)) % 2 ^ p.addrW < e.n.toNat)

/-- The running operation borrows the byte at `a` (R62): the engine is busy with an operation that has a buffer
(BYTE_READ has none, R61). -/
def borrowed (p : Params) (e : Engine) (a : Nat) : Bool :=
  e.st.busy && (e.op == .burstRead || e.op == .burstWrite) && inBuffer p e a

end Sys2Proof.Machine
end

