-- ==== Sys2Proof/Machine/Ops.lean ====
section
/-! DEFINITION. The named operations every instruction and every engine step is written over: the buffer memory
(20_memory.md R60), the register-interface primitives (40_bus_guard_and_primitives.md R120 to R131), issuing a phase
(41_transaction_engine.md R142), the move after a byte (R148), the command accept (42_sequencer_and_operations.md R180
to R186, R193), and the engine's one exception: the abort path's entry (R160) and return (R153). -/

namespace Sys2Proof.Machine

/-! ### The buffer memory -/

/-- What an unlisted address reads as: DESIGN CHOICE, assumption 4. -/
def blankByte : Byte := 0

/-- Reading one byte. -/
def Memory.read : Memory → Nat → Byte
  | [], _ => blankByte
  | (k, x) :: rest, a => if k = a then x else Memory.read rest a

/-- A cell as it is listed: not at all when it holds what an unlisted address reads as. -/
def Memory.cell (a : Nat) (b : Byte) : Memory := if b = blankByte then [] else [(a, b)]

/-- Writing one byte, keeping the addresses rising and no cell blank. -/
def Memory.write : Memory → Nat → Byte → Memory
  | [], a, b => Memory.cell a b
  | (k, x) :: rest, a, b =>
    if a < k then Memory.cell a b ++ (k, x) :: rest
    else if a = k then Memory.cell a b ++ rest
    else (k, x) :: Memory.write rest a b

/-- The canonical form: addresses strictly rising, no cell blank. -/
abbrev Memory.wf (m : Memory) : Prop := m.Pairwise (fun c d => c.1 < d.1) ∧ ∀ c ∈ m, c.2 ≠ blankByte

/-! ### The environment's answers -/

/-- What the next read of ISR returns. -/
def nextStatus (v : Env) : Word :=
  match v.status with
  | a :: _ => a
  | [] => Config.freeStatus v.asked

/-- The oracle after a read of ISR. -/
def afterStatus (v : Env) : Env :=
  match v.status with
  | _ :: rest => { v with status := rest }
  | [] => { v with asked := v.asked + 1 }

/-- What the next read of CR2 returns. -/
def nextCtrl (v : Env) : Word :=
  match v.ctrl with
  | a :: _ => a
  | [] => Config.freeCtrl v.asked

/-- The oracle after a read of CR2. -/
def afterCtrl (v : Env) : Env :=
  match v.ctrl with
  | _ :: rest => { v with ctrl := rest }
  | [] => { v with asked := v.asked + 1 }

/-- What the next read of RXDR returns. -/
def nextRx (v : Env) : Word :=
  match v.rx with
  | a :: _ => a
  | [] => Config.freeRx v.asked

/-- The oracle after a read of RXDR. -/
def afterRx (v : Env) : Env :=
  match v.rx with
  | _ :: rest => { v with rx := rest }
  | [] => { v with asked := v.asked + 1 }

/-! ### The registers the environment moves -/

/-- A read of ISR: the environment shows a status word. -/
def readIsr (s : State) : State :=
  (s.setCtl { s.ctl with isr := nextStatus s.env }).setEnv (afterStatus s.env)

/-- A read of CR2. -/
def readCr2 (s : State) : State :=
  (s.setCtl { s.ctl with cr2 := nextCtrl s.env }).setEnv (afterCtrl s.env)

/-- A read of RXDR. -/
def readRxdr (s : State) : State :=
  (s.setCtl { s.ctl with rxdr := nextRx s.env }).setEnv (afterRx s.env)

/-- A write of CR2. -/
def writeCr2 (value : Word) (s : State) : State := s.setCtl { s.ctl with cr2 := value }

/-- The controller after a write of ICR: each 1 among the clear bits clears its flag in ISR (10_state.md R44;
assumption 16). -/
def icrWritten (b : Binding) (value : Word) (c : Controller) : Controller :=
  { c with isr := c.isr &&& ~~~clearedBits b value }

/-- A write of ICR. -/
def writeIcr (value : Word) (s : State) : State := s.setCtl (icrWritten s.params.regif value s.ctl)

/-! ### The register-interface primitives -/

/-- PollStatus (R120): one read of ISR; no engine register changes. -/
def pollStatus (s : State) : State := (readIsr s).emit (.poll (flagsOf s.params.regif (nextStatus s.env)))

/-- The flag set the next poll returns. -/
def polled (s : State) : Flags := flagsOf s.params.regif (nextStatus s.env)

/-- The read of CR2 that opens a trigger (R91, R92). -/
def ctrlRead (s : State) : State := (readCr2 s).emit (.ctrlRead (nextCtrl s.env))

/-- The event WriteCtrl(d), with the word that carries it to CR2 (R12, R125). -/
def writeDescriptor (d : Descriptor) (value : Word) (s : State) : State := (writeCr2 value s).emit (.writeCtrl d)

/-- A write of CR2 with START = STOP = 0 (R125): the event is the descriptor its fields give. -/
def writeCtrl (value : Word) (s : State) : State := writeDescriptor (descriptorOf s.params.regif value) value s

/-- A write of CR2 with START set (R126). -/
def writeStart (value : Word) (s : State) : State := (writeCr2 value s).emit .start

/-- A write of CR2 with STOP set (R127). -/
def writeStop (value : Word) (s : State) : State := (writeCr2 value s).emit .stop

/-- TriggerStart (R91): `v <- CR2; CR2 <- v | START`. -/
def triggerStart (s : State) : State := writeStart (nextCtrl s.env ||| startBit s.params.regif) (ctrlRead s)

/-- TriggerStop (R92): `v <- CR2; CR2 <- v | STOP`. -/
def triggerStop (s : State) : State := writeStop (nextCtrl s.env ||| stopBit s.params.regif) (ctrlRead s)

/-- TxWrite(b) (R93, R130). -/
def txWrite (b : Byte) (s : State) : State := (s.setCtl { s.ctl with txdr := txWord s.params.regif b }).emit (.tx b)

/-- The byte the next RxRead returns: RXDATA, every other bit of RXDR discarded (R94). -/
def received (s : State) : Byte := (nextRx s.env).extractLsb' s.params.regif.rxData 8

/-- RxRead (R131). -/
def rxRead (s : State) : State := (readRxdr s).emit (.rx (received s))

/-- ClearNack (R95, R128). -/
def clearNack (s : State) : State := (writeIcr (icrNack s.params.regif) s).emit .clearNack

/-- ClearStop (R96, R129). -/
def clearStop (s : State) : State := (writeIcr (icrStop s.params.regif) s).emit .clearStop

/-! ### The engine's shared moves -/

/-- Issue(d), R142. -/
def issue (d : Descriptor) (s : State) : State :=
  (triggerStart (writeDescriptor d (ctrlWord s.params.regif d) s)).setEng
    { s.eng with cur := { dir := d.dir, count := d.count, em := d.em }, idx := 0, st := .awaitAddrAck }

/-- The engine registers after one more transferred byte, R148. -/
def engineAfterByte (e : Engine) : Engine :=
  if e.idx + 1 = e.cur.count then
    match e.cur.em with
    | .softwareEnd => { e with idx := e.idx + 1, st := .awaitTransferComplete }
    | .autoEnd => { e with idx := e.idx + 1, stopCause := .complete, st := .awaitStop }
  else { e with idx := e.idx + 1, st := .awaitByteReady }

/-- AfterByte(), R148. -/
def afterByte (s : State) : State := s.setEng (engineAfterByte s.eng)

/-- TAKING THE EXCEPTION: AbortEntry(), R160, R226. It saves nothing: E.idx and E.phase keep their values. -/
def abortEntry (s : State) : State :=
  (triggerStop (clearNack s)).setEng { s.eng with stopCause := .abort, st := .awaitStop }

/-- THE RETURN: the end of the abort path once STOPF is seen, R153, R227. -/
def abortReturn (s : State) : State := (clearStop s).setEng { s.eng with st := .aborted }

/-! ### The command accept -/

/-- The results an accepted command clears (R180). -/
def clearResult (e : Engine) : Engine :=
  { e with idx := 0, phase := .first, stopCause := .complete, dataValid := false }

/-- The latching of an accepted command word (R180, 30_encoding.md R82). -/
def latch (op : Op) (sadd : BitVec 7) (raddr : Byte) (w : Word) (s : State) : State :=
  (s.setCmd w).setEng
    { clearResult s.eng with op := op, sadd := sadd, raddr := raddr, n := s.len, base := baseOf s.params s.buf }

/-- Reject(), R186. -/
def reject (s : State) : State := (triggerStop s).setEng { s.eng with st := .aborted }

/-- Start the operation at the Bus Guard. -/
def startGuard (s : State) : State := s.setEng { s.eng with st := .awaitBusFree }

/-- An operation that is done at once (R183). -/
def finishAtOnce (s : State) : State := s.setEng { s.eng with st := .done }

/-- The count check of a burst, R182: done for n <= 0, rejected for n > limit, else the Bus Guard. The comparisons are
between integers (00_scope.md R10). -/
def checkCount (limit : Int) (s : State) : State :=
  if s.eng.n.toInt ≤ 0 then finishAtOnce s
  else if limit < s.eng.n.toInt then reject s
  else startGuard s

/-- BURST_READ accepts n up to 255 (R184). -/
def readLimit : Int := 255

/-- BURST_WRITE accepts n with n + 1 up to 255 (R185). -/
def writeLimit : Int := 254

/-- A write of CMD is accepted when the engine is quiescent and ignored while it is busy (R180, R181). -/
def whenQuiescent (accept : State → State) (s : State) : State := if s.eng.st.busy then s else accept s

/-- The accept of a word that decodes to no command, R180, R193. -/
def acceptIllegal (w : Word) (s : State) : State :=
  whenQuiescent (fun s => (s.setCmd w).setEng { clearResult s.eng with st := .illegal }) s

end Sys2Proof.Machine
end

