-- ==== Sys2Proof/Machine/Commands.lean ====
section
/-! DEFINITION. The meanings of the three Public Operations (the CMD rows).

The meaning of a command is its accept step: "A host write of the word w to CMD when E.st is quiescent is one step of
the MTE" (42_sequencer_and_operations.md R180), which checks the arguments and starts the engine. The rest of the
operation is the engine's own steps (Machine/Engine.lean), one poll and its action each (41_transaction_engine.md R140). -/

namespace Sys2Proof.Machine

/-- BYTE_READ, R190: no count check applies (R182). -/
def execByteRead (sadd : BitVec 7) (raddr : Byte) (s : State) : Host.Outcome State Fault Refusal :=
  .next (whenQuiescent (fun s => startGuard (latch .byteRead sadd raddr (cmdWord 1 sadd raddr) s)) s)

/-- BURST_READ, R191: n from LEN, the buffer from BUF; 1 <= n <= 255. -/
def execBurstRead (sadd : BitVec 7) (raddr : Byte) (s : State) : Host.Outcome State Fault Refusal :=
  .next (whenQuiescent (fun s => checkCount readLimit (latch .burstRead sadd raddr (cmdWord 2 sadd raddr) s)) s)

/-- BURST_WRITE, R192: n from LEN, the buffer from BUF; 1 <= n <= 254. -/
def execBurstWrite (sadd : BitVec 7) (raddr : Byte) (s : State) : Host.Outcome State Fault Refusal :=
  .next (whenQuiescent (fun s => checkCount writeLimit (latch .burstWrite sadd raddr (cmdWord 3 sadd raddr) s)) s)

end Sys2Proof.Machine
end

