-- ==== Sys2Proof/Machine/RegisterInterface.lean ====
section
/-! DEFINITION. The meanings of the nine kinds of register-interface access (the REGIF rows, 30_encoding.md R99): each is
the one access of the engine's port by itself, with its effect on the controller's registers, its answer from the
environment, and its item of the event trace. The engine's steps perform the same accesses through the same
operations (Machine/Ops.lean). No engine register changes (40_bus_guard_and_primitives.md R120, R125 to R131). -/

namespace Sys2Proof.Machine

/-- POLL_STATUS, R97, R120. -/
def execPollStatus (s : State) : Host.Outcome State Fault Refusal := .next (pollStatus s)

/-- CTRL_READ, R91, R92. -/
def execCtrlRead (s : State) : Host.Outcome State Fault Refusal := .next (ctrlRead s)

/-- WRITE_CTRL, R90, R125. -/
def execWriteCtrl (value : Word) (s : State) : Host.Outcome State Fault Refusal := .next (writeCtrl value s)

/-- TRIGGER_START, R91, R126: the write that follows the CTRL_READ. -/
def execTriggerStart (value : Word) (s : State) : Host.Outcome State Fault Refusal := .next (writeStart value s)

/-- TRIGGER_STOP, R92, R127: the write that follows the CTRL_READ. -/
def execTriggerStop (value : Word) (s : State) : Host.Outcome State Fault Refusal := .next (writeStop value s)

/-- TX_WRITE, R93, R130. -/
def execTxWrite (b : Byte) (s : State) : Host.Outcome State Fault Refusal := .next (txWrite b s)

/-- RX_READ, R94, R131. -/
def execRxRead (s : State) : Host.Outcome State Fault Refusal := .next (rxRead s)

/-- CLEAR_NACK, R95, R128. -/
def execClearNack (s : State) : Host.Outcome State Fault Refusal := .next (clearNack s)

/-- CLEAR_STOP, R96, R129. -/
def execClearStop (s : State) : Host.Outcome State Fault Refusal := .next (clearStop s)

end Sys2Proof.Machine
end

