-- ==== Sys2Proof/Machine/Dispatch.lean ====
section
/-! DEFINITION. The meaning of each instruction, one arm a constructor. -/

namespace Sys2Proof.Machine

def exec (i : Instr) (s : State) : Host.Outcome State Fault Refusal :=
  match i with
  | .byteRead sadd raddr => Sys2Proof.Machine.execByteRead sadd raddr s
  | .burstRead sadd raddr => Sys2Proof.Machine.execBurstRead sadd raddr s
  | .burstWrite sadd raddr => Sys2Proof.Machine.execBurstWrite sadd raddr s
  | .pollStatus => Sys2Proof.Machine.execPollStatus s
  | .ctrlRead => Sys2Proof.Machine.execCtrlRead s
  | .writeCtrl value => Sys2Proof.Machine.execWriteCtrl value s
  | .triggerStart value => Sys2Proof.Machine.execTriggerStart value s
  | .triggerStop value => Sys2Proof.Machine.execTriggerStop value s
  | .txWrite b => Sys2Proof.Machine.execTxWrite b s
  | .rxRead => Sys2Proof.Machine.execRxRead s
  | .clearNack => Sys2Proof.Machine.execClearNack s
  | .clearStop => Sys2Proof.Machine.execClearStop s

end Sys2Proof.Machine
end

