-- ==== Sys2Proof/Machine/Engine.lean ====
section
/-! DEFINITION. The engine's step function (41_transaction_engine.md R140): one poll, then the action it selects. -/

namespace Sys2Proof.Machine

/-- The poll and the selection of a wait for `awaited` OR NACK-received (R121). -/
def selection (s : State) (awaited : Flags → Bool) : Selection :=
  select s.params.nackPriority (polled s).nackf (awaited (polled s))

/-- The Bus Guard, R122. With E.op = 0 there is no descriptor to issue: a fault no reachable state raises. -/
def busGuardStep (s : State) : Host.Outcome State Fault Refusal :=
  if (polled s).busy then .next (pollStatus s)
  else
    match phase1 s.eng with
    | some d => .next (issue d (pollStatus s))
    | none => .fault .noOperation

/-- The READY action of a write phase: `b <- TxByte(E.idx); emit TxWrite(b); AfterByte()` (R143, R144). Byte 0 is the
address-pointer byte; byte i is buffer byte i - 1, read in the step that transmits it. -/
def sendByte (s : State) : Host.Outcome State Fault Refusal :=
  if s.eng.idx = 0 then .next (afterByte (txWrite s.eng.raddr s))
  else
    let a := bufferAddr s.params s.eng (s.eng.idx.toNat - 1)
    if inRegisters s.params a then .refused .bufferOverlapsRegisters
    else
      let b := Memory.read s.mem a
      .next (afterByte (txWrite b (s.emit (.memRead a b))))

/-- Deliver(i, b), R146, with the byte already read from RXDR. -/
def deliver (b : Byte) (s : State) : Host.Outcome State Fault Refusal :=
  if s.eng.op = .byteRead then .next (s.setEng { s.eng with data := b })
  else
    let a := bufferAddr s.params s.eng s.eng.idx.toNat
    if inRegisters s.params a then .refused .bufferOverlapsRegisters
    else .next ((s.setMem (Memory.write s.mem a b)).emit (.memWrite a b))

/-- The READY action of a read phase: `b <- RxRead(); Deliver(E.idx, b); AfterByte()` (R145). -/
def receiveByte (s : State) : Host.Outcome State Fault Refusal :=
  match deliver (received s) (rxRead s) with
  | .next t => .next (afterByte t)
  | .fault f => .fault f
  | .refused r => .refused r

/-- WriteByteStep, R144. -/
def writeByteStep (s : State) : Host.Outcome State Fault Refusal :=
  match selection s Flags.txis with
  | .nack => .next (abortEntry (pollStatus s))
  | .ready => sendByte (pollStatus s)
  | .none => .next (pollStatus s)

/-- ReadByteStep, R145. -/
def readByteStep (s : State) : Host.Outcome State Fault Refusal :=
  match selection s Flags.rxne with
  | .nack => .next (abortEntry (pollStatus s))
  | .ready => receiveByte (pollStatus s)
  | .none => .next (pollStatus s)

/-- Restart() when phase 1 of Read-register has ended (R156); else the end of a SOFTWARE_END last phase, which the
three operations never reach (R151, R157; assumption 14). -/
def transferComplete (s : State) : State :=
  match s.eng.phase, phase2 s.eng with
  | .first, some d => issue d (s.setEng { s.eng with phase := .second })
  | _, _ => s.setEng { s.eng with st := .done }

/-- TransferCompleteStep, R151. -/
def transferCompleteStep (s : State) : State :=
  match selection s Flags.tc with
  | .nack => abortEntry (pollStatus s)
  | .ready => transferComplete (pollStatus s)
  | .none => pollStatus s

/-- The READY action of StopCompleteStep, R152. -/
def stopComplete (s : State) : State :=
  (clearStop s).setEng { s.eng with dataValid := s.eng.dataValid || s.eng.op == .byteRead, st := .done }

/-- StopCompleteStep, R152. -/
def stopCompleteStep (s : State) : State :=
  match selection s Flags.stopf with
  | .nack => abortEntry (pollStatus s)
  | .ready => stopComplete (pollStatus s)
  | .none => pollStatus s

/-- StopAbortStep, R153: STOPF alone is tested. -/
def stopAbortStep (s : State) : State :=
  if (polled s).stopf then abortReturn (pollStatus s) else pollStatus s

/-- Step(E), R140. A quiescent engine takes no step: the state stays as it is. -/
def engineStep (s : State) : Host.Outcome State Fault Refusal :=
  match s.eng.st with
  | .idle => .next s
  | .awaitBusFree => busGuardStep s
  | .awaitAddrAck =>
    match s.eng.cur.dir with
    | .write => writeByteStep s
    | .read => readByteStep s
  | .awaitByteReady =>
    match s.eng.cur.dir with
    | .write => writeByteStep s
    | .read => readByteStep s
  | .awaitTransferComplete => .next (transferCompleteStep s)
  | .awaitStop =>
    match s.eng.stopCause with
    | .complete => .next (stopCompleteStep s)
    | .abort => .next (stopAbortStep s)
  | .done => .next s
  | .aborted => .next s
  | .illegal => .next s

end Sys2Proof.Machine
end

