-- ==== Sys2Proof/Machine/HostPort.lean ====
section
/-! DEFINITION. What the world outside the engine does: the host's accesses to the command registers (10_state.md R30 to
R34), to the controller's registers for initialisation (70_reset_and_hazards.md R254) and to memory, its WAIT
(30_encoding.md R86), the resets (R250 to R252), and a register-interface access performed by itself (R99). -/

namespace Sys2Proof.Machine

/-! ### The command registers -/

/-- The codes a step runs: a command word is the accept of its command or of an illegal word (R180, R193), an access
key is the access of its row (R99). -/
def runCode (c : Code) (s : State) : Host.Outcome State Fault Refusal :=
  match c, decode s.params.regif c with
  | _, .ok i => exec i s
  | .cmd w, .error _ => .next (acceptIllegal w s)
  | .access _, .error _ => .refused .noSuchAccess

/-- The most bytes a command's buffer may have (42_sequencer_and_operations.md R184, R185); none for a command without
a buffer (20_memory.md R61). -/
def bufferLimit : Instr → Option Int
  | .byteRead _ _ => none
  | .burstRead _ _ => some readLimit
  | .burstWrite _ _ => some writeLimit
  | .pollStatus => none
  | .ctrlRead => none
  | .writeCtrl _ => none
  | .triggerStart _ => none
  | .triggerStop _ => none
  | .txWrite _ => none
  | .rxRead => none
  | .clearNack => none
  | .clearStop => none

/-- What the spec has a model refuse of the buffer a burst of LEN bytes at BUF would start with (20_memory.md R69, U14;
assumption 9): it runs past 2^ADDR_W, or a byte of it is a register. A burst that starts no phase has no buffer (R61). -/
def bufferBreach (limit : Int) (s : State) : Option Refusal :=
  if s.len.toInt ≤ 0 ∨ limit < s.len.toInt then none
  else if 2 ^ s.params.addrW < s.buf.toNat % 2 ^ s.params.addrW + s.len.toNat then some .bufferWraps
  else if overlapsRegisters s.params (s.buf.toNat % 2 ^ s.params.addrW) s.len.toNat then some .bufferOverlapsRegisters
  else none

/-- Why the host may not write the word `w` to CMD now: the engine is busy (R181, 70_reset_and_hazards.md R261), or the
word starts a burst with a buffer the spec refuses. -/
def commandBreach (w : Word) (s : State) : Option Refusal :=
  if s.eng.st.busy then some .commandWhileBusy
  else
    match decodeCmd w with
    | .ok i => (bufferLimit i).bind fun limit => bufferBreach limit s
    | .error _ => none

/-- A host write of CMD: refused where it breaks the host's contract, else the word's instruction or ILLEGAL. -/
def writeCmd (w : Word) (s : State) : Host.Outcome State Fault Refusal :=
  match commandBreach w s with
  | some r => .refused r
  | none => runCode (.cmd w) s

/-- A host write of a command register, by offset (R30): CMD, LEN, BUF; a write of STATUS is ignored (R34). -/
def writeCommandRegister (offset : Nat) (value : Word) (s : State) : Host.Outcome State Fault Refusal :=
  if offset = 0x0 then writeCmd value s
  else if offset = 0x4 then .next (s.setLen value)
  else if offset = 0x8 then .next (s.setBuf value)
  else if offset = 0xC then .next s
  else .refused .narrowOrUnaligned

/-- What a host read of a command register returns, by offset (R30, R31, R33, R34). -/
def commandReads (offset : Nat) (s : State) : Option Word :=
  if offset = 0x0 then some s.cmd
  else if offset = 0x4 then some s.len
  else if offset = 0x8 then some s.buf
  else if offset = 0xC then some (statusWord s.eng)
  else none

/-- A host read of a command register: no side effect (R33). -/
def readCommandRegister (offset : Nat) (s : State) : Host.Outcome State Fault Refusal :=
  match commandReads offset s with
  | some w => .next (s.answerHost w)
  | none => .refused .narrowOrUnaligned

/-! ### The controller's registers -/

/-- CR1.PE (10_state.md R41). -/
def enabled (b : Binding) (c : Controller) : Bool := c.cr1.getLsbD b.pe

/-- The controller after a host write of one of its registers, by offset (R40 to R47). TIMINGR is written while PE = 0
(R254); a write of ICR clears flags (R44); the rest is assumption 11. -/
def controllerWritten (b : Binding) (offset : Nat) (value : Word) (c : Controller) : Except Refusal Controller :=
  if offset = b.offset.cr1.toNat then .ok { c with cr1 := value }
  else if offset = b.offset.cr2.toNat then .ok { c with cr2 := value }
  else if offset = b.offset.oar1.toNat then .ok { c with oar1 := value }
  else if offset = b.offset.oar2.toNat then .ok { c with oar2 := value }
  else if offset = b.offset.timingr.toNat then
    if enabled b c then .error .timingWhileEnabled else .ok { c with timingr := value }
  else if offset = b.offset.timeoutr.toNat then .ok { c with timeoutr := value }
  else if offset = b.offset.isr.toNat then .error .readOnlyController
  else if offset = b.offset.icr.toNat then .ok (icrWritten b value c)
  else if offset = b.offset.pecr.toNat then .error .readOnlyController
  else if offset = b.offset.rxdr.toNat then .error .readOnlyController
  else if offset = b.offset.txdr.toNat then .ok { c with txdr := value }
  else .error .narrowOrUnaligned

/-- A host write of a controller register. -/
def writeControllerRegister (offset : Nat) (value : Word) (s : State) : Host.Outcome State Fault Refusal :=
  match controllerWritten s.params.regif offset value s.ctl with
  | .ok c => .next (s.setCtl c)
  | .error r => .refused r

/-- What a host read of a controller register returns, by offset, and the state it leaves: ISR, CR2 and RXDR are answered
by the environment, ICR reads 0 (R44). -/
def controllerReads (offset : Nat) (s : State) : Option (State × Word) :=
  if offset = s.params.regif.offset.cr1.toNat then some (s, s.ctl.cr1)
  else if offset = s.params.regif.offset.cr2.toNat then some (readCr2 s, nextCtrl s.env)
  else if offset = s.params.regif.offset.oar1.toNat then some (s, s.ctl.oar1)
  else if offset = s.params.regif.offset.oar2.toNat then some (s, s.ctl.oar2)
  else if offset = s.params.regif.offset.timingr.toNat then some (s, s.ctl.timingr)
  else if offset = s.params.regif.offset.timeoutr.toNat then some (s, s.ctl.timeoutr)
  else if offset = s.params.regif.offset.isr.toNat then some (readIsr s, nextStatus s.env)
  else if offset = s.params.regif.offset.icr.toNat then some (s, 0)
  else if offset = s.params.regif.offset.pecr.toNat then some (s, s.ctl.pecr)
  else if offset = s.params.regif.offset.rxdr.toNat then some (readRxdr s, nextRx s.env)
  else if offset = s.params.regif.offset.txdr.toNat then some (s, s.ctl.txdr)
  else none

/-- A host read of a controller register. -/
def readControllerRegister (offset : Nat) (s : State) : Host.Outcome State Fault Refusal :=
  match controllerReads offset s with
  | some (t, w) => .next (t.answerHost w)
  | none => .refused .narrowOrUnaligned

/-! ### The address map of the host's accesses -/

def Size.bytes : Size → Nat
  | .byte => 1
  | .half => 2
  | .word => 4

/-- The addresses of the bytes of a host access, low byte first. -/
def spanFrom (addr : Word) : Nat → List Word
  | 0 => []
  | k + 1 => addr :: spanFrom (addr + 1) k

/-- The access touches the window of `size` bytes at `base`. -/
def touches (base : Word) (size : Nat) (span : List Word) : Bool := span.any (inWindow base size)

/-- Where a host access goes. -/
inductive Target where
  | command (offset : Nat)
  | controller (offset : Nat)
  | memory (span : List Word)
  | narrow
  deriving DecidableEq, Repr

/-- The address map (20_memory.md R67, R69): the command registers and the controller's registers, each accessed as one
whole word, and memory elsewhere. DESIGN CHOICE (assumption 21), for bases the spec leaves OPEN: where the two windows
overlap, the command registers answer; and a window may wrap past 2^32 and begin at any address, which its registers'
alignment is counted from. -/
def target (p : Params) (addr : Word) (size : Size) : Target :=
  if touches p.engineBase engineWindow (spanFrom addr size.bytes) then
    if size = .word then .command (addr - p.engineBase).toNat else .narrow
  else if touches p.regBase p.regif.window (spanFrom addr size.bytes) then
    if size = .word then .controller (addr - p.regBase).toNat else .narrow
  else .memory (spanFrom addr size.bytes)

/-- Why the host may not access these bytes of memory: outside the buffer port (R60), or borrowed (R62). -/
def memoryStop (span : List Word) (s : State) : Option (Host.Outcome State Fault Refusal) :=
  if span.any fun a => decide (2 ^ s.params.addrW ≤ a.toNat) then some (.fault .addressOutside)
  else if span.any fun a => borrowed s.params s.eng a.toNat then some (.refused .bufferBorrowed)
  else none

/-- The bytes of memory at `span`, as a little-endian number (R67). -/
def loadBytes (m : Memory) : List Word → Nat
  | [] => 0
  | a :: rest => (Memory.read m a.toNat).toNat + 256 * loadBytes m rest

/-- Memory with the low bytes of `value` written at `span`, low byte first (R67). -/
def storeBytes (value : Word) : List Word → Memory → Memory
  | [], m => m
  | a :: rest, m => storeBytes (value >>> 8) rest (Memory.write m a.toNat (value.setWidth 8))

/-- A host read. -/
def hostRead (addr : Word) (size : Size) (s : State) : Host.Outcome State Fault Refusal :=
  match target s.params addr size with
  | .command offset => readCommandRegister offset s
  | .controller offset =>
    if s.eng.st.busy then .refused .controllerOwned else readControllerRegister offset s
  | .memory span => (memoryStop span s).getD (.next (s.answerHost (BitVec.ofNat 32 (loadBytes s.mem span))))
  | .narrow => .refused .narrowOrUnaligned

/-- A host write. -/
def hostWrite (addr : Word) (size : Size) (value : Word) (s : State) : Host.Outcome State Fault Refusal :=
  match target s.params addr size with
  | .command offset => writeCommandRegister offset value s
  | .controller offset =>
    if s.eng.st.busy then .refused .controllerOwned else writeControllerRegister offset value s
  | .memory span => (memoryStop span s).getD (.next (s.setMem (storeBytes value span s.mem)))
  | .narrow => .refused .narrowOrUnaligned

/-! ### The other inputs -/

/-- The host takes STATUS.DATA as BYTE_READ's result (R87); a fault while DATA_VALID = 0 (U6, D16). -/
def takeData (s : State) : Host.Outcome State Fault Refusal :=
  if s.eng.dataValid then .next (s.answerHost (s.eng.data.setWidth 32)) else .fault .dataNotValid

/-- WAIT (R86): the engine steps while it is busy, and the last STATUS value read is the answer. -/
def waitStep (s : State) : Host.Outcome State Fault Refusal :=
  if s.eng.st.busy then engineStep (s.setInputs (.wait :: s.inputs)) else .next (s.answerHost (statusWord s.eng))

/-- Reset of the engine, R250 and R251: the internal and command registers; no port access. -/
def resetEngine (s : State) : State := (((s.setEng Engine.reset).setCmd 0).setLen 0).setBuf 0

/-- One input; `s` is the state with the input taken off its list. -/
def runInput (i : Input) (s : State) : Host.Outcome State Fault Refusal :=
  match i with
  | .read addr size => hostRead addr size s
  | .write addr size value => hostWrite addr size value s
  | .access k => runCode (.access k) s
  | .takeData => takeData s
  | .tick => engineStep s
  | .wait => waitStep s
  | .reset => .next (resetEngine s)
  | .resetController => .next (s.setCtl s.params.regif.reset)

/-- The next input if there is one, else the engine's step. -/
def stepInput (s : State) : Host.Outcome State Fault Refusal :=
  match s.inputs with
  | [] => engineStep s
  | i :: rest => runInput i (s.setInputs rest)

/-- The input that makes the next step run a code: a host write of CMD, or the access by itself. -/
def inputOf (p : Params) : Code → Input
  | .cmd w => .write p.engineBase .word w
  | .access k => .access k

end Sys2Proof.Machine
end

