-- ==== Sys2Proof/Machine/Step.lean ====
section
/-! DEFINITION. One step of the machine, and how an instruction is put where the next step runs it.

The machine has no program counter and fetches nothing (10_state.md R23, 20_memory.md R75): an instruction runs when the
host writes its command word, or when its access is performed. A pending input is taken first; with none pending the
engine steps. -/

namespace Sys2Proof.Machine

/-- One step. -/
def step (s : State) : Host.Outcome State Fault Refusal := stepInput s

/-- `s` with the instruction of the table word `w` as the next input (assumption 5). -/
def State.withFetchWord (s : State) (nbits w : Nat) : State :=
  s.setInputs (inputOf s.params (tableCode nbits w) :: s.inputs)

end Sys2Proof.Machine
end

