-- ==== Sys2Proof/Machine/HostProgram.lean ====
section
/-! DEFINITION. The host-side syntax (30_encoding.md R86) and the source's call forms (R87): each statement is one host
access, and each call expands to statements. -/

namespace Sys2Proof.Machine

/-- The basic statements of R86; `cmd` names the operation by its mnemonic. -/
inductive Statement where
  | len (n : Int)
  | buf (addr : Nat)
  | cmd (op : Op) (slave addr : Nat)
  | cmdWord (w : Word)
  | wait
  deriving DecidableEq, Repr

/-- Assembling a statement: the input it is, or nothing where the assembler refuses an operand (R86). -/
def assemble (p : Params) : Statement → Option Input
  | .len n =>
    if -2 ^ 31 ≤ n ∧ n < 2 ^ 31 then some (.write (p.engineBase + 4) .word (BitVec.ofInt 32 n)) else none
  | .buf addr =>
    if addr < 2 ^ p.addrW then some (.write (p.engineBase + 8) .word (BitVec.ofNat 32 addr)) else none
  | .cmd op slave addr =>
    if op ≠ .none ∧ slave < 128 ∧ addr < 256 then
      some (.write p.engineBase .word (Sys2Proof.cmdWord op.code (BitVec.ofNat 7 slave) (BitVec.ofNat 8 addr)))
    else none
  | .cmdWord w => some (.write p.engineBase .word w)
  | .wait => some .wait

/-- Assembling a program, refused whole if one statement is. -/
def assembleAll (p : Params) : List Statement → Option (List Input)
  | [] => some []
  | st :: rest =>
    match assemble p st, assembleAll p rest with
    | some i, some l => some (i :: l)
    | _, _ => none

/-- The source's call forms (R87). -/
inductive Call where
  | byteRead (slave addr : Nat)
  | burstRead (slave addr : Nat) (n : Int) (buffer : Nat)
  | burstWrite (slave addr : Nat) (n : Int) (buffer : Nat)
  deriving DecidableEq, Repr

/-- The expansion of a call (R87). -/
def Call.expand : Call → List Statement
  | .byteRead slave addr => [.cmd .byteRead slave addr, .wait]
  | .burstRead slave addr n buffer => [.len n, .buf buffer, .cmd .burstRead slave addr, .wait]
  | .burstWrite slave addr n buffer => [.len n, .buf buffer, .cmd .burstWrite slave addr, .wait]

/-- What a call returns to the host program (R87, 00_scope.md R16). -/
inductive CallResult where
  /-- The source's `Result` of a burst. -/
  | ok
  /-- The byte of a byte_read. -/
  | byte (b : Byte)
  | aborted
  deriving DecidableEq, Repr

/-- STATUS.STATE (10_state.md R34). -/
def statusState (status : Word) : BitVec 4 := status.extractLsb' 0 4

/-- STATUS.DATA (10_state.md R34). -/
def statusData (status : Word) : Byte := status.extractLsb' 8 8

/-- The result column of R87: what a call returns, from the STATUS value its WAIT gives. A burst's result is stated for
STATE = 6 and STATE = 7 alone. -/
def Call.result (status : Word) : Call → Option CallResult
  | .byteRead _ _ => some (if statusState status = 6 then .byte (statusData status) else .aborted)
  | .burstRead _ _ _ _ =>
    if statusState status = 6 then some .ok else if statusState status = 7 then some .aborted else none
  | .burstWrite _ _ _ _ =>
    if statusState status = 6 then some .ok else if statusState status = 7 then some .aborted else none

/-- The host accesses that initialise the controller, in order (70_reset_and_hazards.md R254, steps 2 to 4; D23): CR1 with
PE = 0, TIMINGR, then CR1 with PE = 1 and every interrupt and DMA enable 0. TIMEOUTR is left as it is (10_state.md
R47). -/
def initialise (p : Params) : List Input :=
  [.write (p.regBase + p.regif.offset.cr1.setWidth 32) .word 0,
    .write (p.regBase + p.regif.offset.timingr.setWidth 32) .word p.timing,
    .write (p.regBase + p.regif.offset.cr1.setWidth 32) .word (bit p.regif.pe)]

end Sys2Proof.Machine
end

