-- ==== Sys2Proof/Safety.lean ====
section
/-! DEFINITION. What a good state is, in the terms claims use: the engine's invariant (10_state.md R20 to R25,
41_transaction_engine.md R147, R148), the canonical form of memory, and the host's side of the contract
(70_reset_and_hazards.md R254 to R256, R261, R262). -/

namespace Sys2Proof.Machine

/-- The operation's count is one a phase is issued for (10_state.md R20: 1 to 255 for BURST_READ, 1 to 254 for
BURST_WRITE; BYTE_READ has no count). -/
def Engine.Admitted (e : Engine) : Prop :=
  match e.op with
  | .none => False
  | .byteRead => True
  | .burstRead => 1 ≤ e.n.toInt ∧ e.n.toInt ≤ readLimit
  | .burstWrite => 1 ≤ e.n.toInt ∧ e.n.toInt ≤ writeLimit

/-- The descriptor of the phase E.phase names (R141). -/
def Engine.phaseDescriptor (e : Engine) : Option Descriptor :=
  match e.phase with
  | .first => phase1 e
  | .second => phase2 e

/-- A phase is open: E.cur is what R141 gives for it. -/
def Engine.Open (e : Engine) : Prop :=
  e.Admitted ∧
    e.phaseDescriptor = some { sadd := e.sadd, dir := e.cur.dir, count := e.cur.count, em := e.cur.em }

/-- What each FSM state says of the other registers. -/
def Engine.StateInv (e : Engine) : Prop :=
  match e.st with
  | .idle => True
  | .awaitBusFree => e.Admitted ∧ e.phase = .first ∧ e.idx = 0 ∧ e.stopCause = .complete
  | .awaitAddrAck => e.Open ∧ e.idx = 0 ∧ e.stopCause = .complete
  | .awaitByteReady => e.Open ∧ 0 < e.idx ∧ e.idx < e.cur.count ∧ e.stopCause = .complete
  | .awaitTransferComplete =>
    e.Open ∧ e.idx = e.cur.count ∧ e.cur.em = .softwareEnd ∧ e.stopCause = .complete
  | .awaitStop =>
    e.Open ∧ e.idx ≤ e.cur.count ∧ (e.stopCause = .complete → e.idx = e.cur.count ∧ e.cur.em = .autoEnd)
  | .done => True
  | .aborted => True
  | .illegal => True

/-- The engine's invariant; DATA_VALID is 1 only after a BYTE_READ that ended in DONE (R20). -/
def Engine.Inv (e : Engine) : Prop :=
  e.StateInv ∧ (e.dataValid = true → e.st = .done ∧ e.op = .byteRead)

/-- No byte of the operation's buffer lies in a register window (20_memory.md R69). -/
def BufferClear (p : Params) (e : Engine) (count : Nat) : Prop :=
  ∀ i, i < count → inRegisters p (bufferAddr p e i) = false

/-- The buffer of the running burst lies in the buffer port without wrapping and clear of the registers (R69, U14). -/
def Engine.BufferFits (p : Params) (e : Engine) : Prop :=
  e.st.busy = true → e.op = .burstRead ∨ e.op = .burstWrite →
    e.base.toNat + e.n.toNat ≤ 2 ^ p.addrW ∧ BufferClear p e e.n.toNat

/-- The state's invariant: the engine's, memory in canonical form and within the buffer port, E.base an address, and the
running burst's buffer one the spec admits. -/
def State.Inv (s : State) : Prop :=
  s.eng.Inv ∧ Memory.wf s.mem ∧ (∀ c ∈ s.mem, c.1 < 2 ^ s.params.addrW) ∧ s.eng.base.toNat < 2 ^ s.params.addrW ∧
    s.eng.BufferFits s.params

/-- The engine waits at a point where NACK is detected (41_transaction_engine.md R150). -/
def Engine.nackTested (e : Engine) : Bool :=
  match e.st with
  | .idle => false
  | .awaitBusFree => false
  | .awaitAddrAck => true
  | .awaitByteReady => true
  | .awaitTransferComplete => true
  | .awaitStop => e.stopCause == .complete
  | .done => false
  | .aborted => false
  | .illegal => false

/-- The flag the engine's state waits for (10_state.md R22, R36); none in a quiescent state. -/
def Engine.awaited (e : Engine) (f : Flags) : Bool :=
  match e.st with
  | .idle => false
  | .awaitBusFree => !f.busy
  | .awaitAddrAck => if e.cur.dir = .write then f.txis else f.rxne
  | .awaitByteReady => if e.cur.dir = .write then f.txis else f.rxne
  | .awaitTransferComplete => f.tc
  | .awaitStop => f.stopf
  | .done => false
  | .aborted => false
  | .illegal => false

/-- The burst that LEN and BUF describe, if it were started, has a buffer the spec admits: inside the buffer port without
wrapping, and clear of the registers (R69, U14). -/
def State.bufferAdmitted (s : State) : Prop :=
  s.buf.toNat % 2 ^ s.params.addrW + s.len.toNat ≤ 2 ^ s.params.addrW ∧
    ∀ k, k < s.len.toNat → inRegisters s.params ((s.buf.toNat + k) % 2 ^ s.params.addrW) = false

/-- The register windows share no byte, as the spec leaves open (assumption 21). -/
def WindowsDisjoint (p : Params) : Prop :=
  ∀ a : Word, ¬ (inWindow p.engineBase engineWindow a = true ∧ inWindow p.regBase p.regif.window a = true)

/-- The controller is initialised: enabled, no interrupt or DMA enable, no timeout (70_reset_and_hazards.md R254,
60_exceptions.md R228). -/
def initialised (b : Binding) (c : Controller) : Bool :=
  enabled b c && (c.cr1 &&& b.enables == 0) && (c.timeoutr == 0)

/-- The host may act: the engine is quiescent and the controller initialised (R254, R256). -/
def State.hostReady (s : State) : Bool := !s.eng.st.busy && initialised s.params.regif s.ctl

/-! ### What a step gives -/

/-- The outcome is a next state with these registers, this memory byte by byte, and these port accesses added to the
trace; the parameters, LEN, BUF, the pending inputs and what the host has read are as in `s`. -/
def Gives (o : Host.Outcome State Fault Refusal) (s : State) (cmd : Word) (eng : Engine) (ctl : Controller) (env : Env)
    (bytes : Nat → Byte) (events : List Event) : Prop :=
  ∃ t, o = .next t ∧ t.cmd = cmd ∧ t.eng = eng ∧ t.ctl = ctl ∧ t.env = env ∧
    (∀ a, Memory.read t.mem a = bytes a) ∧ t.trace = s.trace ++ events ∧ t.params = s.params ∧ t.len = s.len ∧
    t.buf = s.buf ∧ t.inputs = s.inputs ∧ t.hostReads = s.hostReads

/-- The step of `s` gives the registers `eng` and the controller `ctl`, leaves CMD as it is, and performs its one poll
and then `events`. -/
def StepGives (s : State) (eng : Engine) (ctl : Controller) (env : Env) (bytes : Nat → Byte) (events : List Event) :
    Prop :=
  Gives (step s) s s.cmd eng ctl env bytes (.poll (polled s) :: events)

/-- The controller once the step's poll has been answered. -/
def polledCtl (s : State) : Controller := { s.ctl with isr := nextStatus s.env }

/-- The controller once the step's poll has been answered and `value` written to ICR. -/
def clearedCtl (s : State) (value : Word) : Controller :=
  { s.ctl with isr := nextStatus s.env &&& ~~~clearedBits s.params.regif value }

/-- The oracle once the step's poll has been answered. -/
def polledEnv (s : State) : Env := afterStatus s.env

/-- What the read of CR2 after the step's poll returns. -/
def ctrlAnswer (s : State) : Word := nextCtrl (polledEnv s)

/-- What the read of RXDR after the step's poll returns. -/
def rxAnswer (s : State) : Word := nextRx (polledEnv s)

/-- The step spins: one poll, nothing else (00_scope.md R15). -/
def Spins (s : State) : Prop := StepGives s s.eng (polledCtl s) (polledEnv s) (Memory.read s.mem) []

/-- The step takes the abort path's entry: ClearNack, TriggerStop, AWAIT_STOP with stop_cause ABORT, E.idx and E.phase
kept (41_transaction_engine.md R160). -/
def Aborts (s : State) : Prop :=
  StepGives s { s.eng with stopCause := .abort, st := .awaitStop }
    { clearedCtl s (icrNack s.params.regif) with cr2 := ctrlAnswer s ||| stopBit s.params.regif }
    (afterCtrl (polledEnv s)) (Memory.read s.mem) [.clearNack, .ctrlRead (ctrlAnswer s), .stop]

/-- The step issues the descriptor `d` with the registers `e`: WriteCtrl, TriggerStart, E.cur, E.idx = 0,
AWAIT_ADDR_ACK (R142). -/
def Issues (s : State) (e : Engine) (d : Descriptor) : Prop :=
  StepGives s { e with cur := { dir := d.dir, count := d.count, em := d.em }, idx := 0, st := .awaitAddrAck }
    { polledCtl s with cr2 := ctrlAnswer s ||| startBit s.params.regif } (afterCtrl (polledEnv s))
    (Memory.read s.mem) [.writeCtrl d, .ctrlRead (ctrlAnswer s), .start]

/-- The registers after the latching of an accepted command (42_sequencer_and_operations.md R180). -/
def acceptedEngine (s : State) (op : Op) (sadd : BitVec 7) (raddr : Byte) (st : EngState) : Engine :=
  { st := st, op := op, sadd := sadd, raddr := raddr, n := s.len
    base := BitVec.ofNat 32 (s.buf.toNat % 2 ^ s.params.addrW)
    phase := .first, cur := s.eng.cur, idx := 0, stopCause := .complete, data := s.eng.data, dataValid := false }

/-! ### Environments and traces -/

/-- The status words show, one after the other, what `wants` asks of their flags. -/
def Shows (b : Binding) (words : List Word) (wants : List (Flags → Bool)) : Prop :=
  List.Forall₂ (fun w want => want (flagsOf b w) = true) words wants

/-- The polls of a Read-register(m) that nothing NACKs: the bus free, the pointer byte wanted, the phase complete, m
bytes ready, the STOP detected (95_test_vectors.md, the script ACKS). -/
def readAcks (m : Nat) : List (Flags → Bool) :=
  [fun f => !f.busy, fun f => f.txis && !f.nackf, fun f => f.tc && !f.nackf] ++
    List.replicate m (fun f => f.rxne && !f.nackf) ++ [fun f => f.stopf && !f.nackf]

/-- The polls of a Write-register(m) that nothing NACKs. -/
def writeAcks (m : Nat) : List (Flags → Bool) :=
  [fun f => !f.busy] ++ List.replicate (m + 1) (fun f => f.txis && !f.nackf) ++ [fun f => f.stopf && !f.nackf]

/-- The bytes handed to the controller, in order. -/
def sentBytes (l : List Event) : List Byte :=
  l.filterMap fun e => match e with
    | .tx b => some b
    | _ => none

/-- The descriptors issued, in order. -/
def issuedDescriptors (l : List Event) : List Descriptor :=
  l.filterMap fun e => match e with
    | .writeCtrl d => some d
    | _ => none

/-- How many STOP requests the engine made. -/
def stopRequests (l : List Event) : Nat := l.count .stop

/-- An event that is a poll. -/
def Event.isPoll : Event → Bool
  | .poll _ => true
  | _ => false

end Sys2Proof.Machine
end

