-- ==== Sys2Proof/Certificates/Slice0/Obligations.lean ====
section
/-! DEFINITION. The statements for the provers, by the spec's files: the encodings, the register-interface accesses, the
command accept, the engine's steps, whole operations, the invariant, and the host's port. -/

open Sys2Proof Sys2Proof.Machine

/-! ### Encodings (30_encoding.md)

A statement about a controller register or an access key holds for every REGIF_BINDING, or for every well-formed one;
the numbers 30_encoding.md gives are those of the default binding, `Binding.stm32f3` (log entry 1). -/

/-- In every well-formed binding, decoding the code of a well-formed instruction gives it back, as a code and as bytes. -/
def Obligations.DecodeOfEncodeIsIdentity : Prop :=
  ∀ (b : Binding) (i : Instr), b.WellFormed → i.wellFormed b = true →
    decode b (encode b i) = .ok i ∧ decodeBytes b (encode b i).bytes = .ok i

/-- R81, R83: a word with a reserved bit or a reserved OP decodes to nothing; any other word decodes to the operation of
its OP with SADD = w[14:8] and REGADDR = w[23:16]. -/
def Obligations.CommandDecodesByItsFields : Prop :=
  ∀ w : Word,
    ((w &&& 0xFF0080F0 ≠ 0 ∨ (w &&& 0xF ≠ 1 ∧ w &&& 0xF ≠ 2 ∧ w &&& 0xF ≠ 3)) → ∃ r, decodeCmd w = .error r) ∧
    (w &&& 0xFF0080F0 = 0 →
      (w &&& 0xF = 1 → decodeCmd w = .ok (.byteRead ((w >>> 8).setWidth 7) ((w >>> 16).setWidth 8))) ∧
      (w &&& 0xF = 2 → decodeCmd w = .ok (.burstRead ((w >>> 8).setWidth 7) ((w >>> 16).setWidth 8))) ∧
      (w &&& 0xF = 3 → decodeCmd w = .ok (.burstWrite ((w >>> 8).setWidth 7) ((w >>> 16).setWidth 8))))

/-- Each command has one word: a word that decodes is the encoding of what it decodes to, in every binding. -/
def Obligations.DecodedCommandEncodesBack : Prop :=
  ∀ (b : Binding) (w : Word) (i : Instr), decodeCmd w = .ok i → encode b i = .cmd w

/-- R99: in a well-formed binding no access key matches two rows, and in every binding a key decodes exactly when it
matches one. -/
def Obligations.AccessRowsDoNotOverlap : Prop :=
  ∀ b : Binding,
    (b.WellFormed → (keyRows b).Pairwise (fun r q => ∀ k, ¬ (r.hits k = true ∧ q.hits k = true))) ∧
    ∀ k, (∃ i, decodeKey b k = .ok i) ↔ ∃ r ∈ keyRows b, r.hits k = true

/-- Sanity: the default binding is well-formed, and its nine rows are the REGIF rows of spec/opcode_table.json. -/
def Obligations.DefaultBindingMatchesTable : Prop :=
  Binding.stm32f3.WellFormed ∧
    keyRows .stm32f3 =
      [⟨0x01800000000, 0x1FF00000000⟩, ⟨0x00400000000, 0x1FF00000000⟩, ⟨0x10400000000, 0x1FF00006000⟩,
        ⟨0x10400002000, 0x1FF00006000⟩, ⟨0x10400004000, 0x1FF00006000⟩, ⟨0x12800000000, 0x1FFFFFFFF00⟩,
        ⟨0x02400000000, 0x1FF00000000⟩, ⟨0x11C00000010, 0x1FFFFFFFFFF⟩, ⟨0x11C00000020, 0x1FFFFFFFFFF⟩]

/-- Sanity: words of 95_test_vectors.md 2.1 and 2.2. -/
def Obligations.SpecWordsDecode : Prop :=
  decodeTableWord 32 0x00756801 = some (.byteRead 0x68 0x75) ∧
    decodeTableWord 32 0x00105002 = some (.burstRead 0x50 0x10) ∧
    decodeTableWord 32 0x00105003 = some (.burstWrite 0x50 0x10) ∧
    decodeTableWord 32 0x00008001 = none ∧
    decodeTableWord 48 0x104000100D0 = some (.writeCtrl 0x000100D0) ∧
    decodeTableWord 48 0x104000120D0 = some (.triggerStart 0x000120D0) ∧
    decodeTableWord 48 0x104020440A0 = some (.triggerStop 0x020440A0) ∧
    decodeTableWord 48 0x12800000075 = some (.txWrite 0x75) ∧
    decodeTableWord 48 0x11C00000010 = some .clearNack

/-- A step runs the instruction its input decodes to (log entries 3, 5 and 21): put at the next input, a table word that
decodes to `i` makes the step `exec i`: for an access where the machine has the table's binding, for a command where the
host's contract admits it (R181, R69; what happens where it does not: `CommandWhileBusyIsIgnored`,
`RefusedBuffersAreRefused`). -/
def Obligations.StepRunsDecodedInstruction : Prop :=
  ∀ (s : State) (nbits w : Nat) (i : Instr), w < 2 ^ 41 → decodeTableWord nbits w = some i →
    (i.isCommand = false → s.params.regif = .stm32f3 → step (s.withFetchWord nbits w) = exec i s) ∧
    (i.isCommand = true → s.eng.st.busy = false →
      (∀ limit, bufferLimit i = some limit → 1 ≤ s.len.toInt → s.len.toInt ≤ limit → s.bufferAdmitted) →
      step (s.withFetchWord nbits w) = exec i s)

/-- The host's write of CMD runs the command its word decodes to, where its contract admits it, and an `access` input the
access its key decodes to in the machine's binding (the model's inputs: log entries 5 and 8; CMD in overlapping
register windows: 21). -/
def Obligations.InputRunsDecodedInstruction : Prop :=
  ∀ (s : State) (rest : List Input) (i : Instr),
    (∀ w, s.inputs = .write s.params.engineBase .word w :: rest → decodeCmd w = .ok i → s.eng.st.busy = false →
      (∀ limit, bufferLimit i = some limit → 1 ≤ s.len.toInt → s.len.toInt ≤ limit → s.bufferAdmitted) →
      step s = exec i (s.setInputs rest)) ∧
    (∀ k, s.inputs = .access k :: rest → decodeKey s.params.regif k = .ok i → step s = exec i (s.setInputs rest))

/-! ### Register-interface accesses (30_encoding.md R90 to R97, 40_bus_guard_and_primitives.md) -/

/-- R90: in a well-formed binding the CR2 word of a descriptor has AUTOEND, NBYTES, RD_WRN and SADD in their places and
every other bit 0, and WRITE_CTRL writes it whole; in the default binding it is the word R90 writes out (log entry 1). -/
def Obligations.WriteCtrlProgramsDescriptor : Prop :=
  ∀ (s : State) (d : Descriptor),
    let b := s.params.regif
    (b.WellFormed →
      (ctrlWord b d).extractLsb' b.cr2.sadd 7 = d.sadd ∧ (ctrlWord b d).extractLsb' b.cr2.nbytes 8 = d.count ∧
      (ctrlWord b d).getLsbD b.cr2.rdWrn = decide (d.dir = .read) ∧
      (ctrlWord b d).getLsbD b.cr2.autoEnd = decide (d.em = .autoEnd) ∧
      (∀ j, (∀ f ∈ [(b.cr2.sadd, 7), (b.cr2.nbytes, 8), (b.cr2.rdWrn, 1), (b.cr2.autoEnd, 1)],
        j < f.1 ∨ f.1 + f.2 ≤ j) → (ctrlWord b d).getLsbD j = false) ∧
      Gives (exec (.writeCtrl (ctrlWord b d)) s) s s.cmd s.eng { s.ctl with cr2 := ctrlWord b d } s.env
        (Memory.read s.mem) [.writeCtrl d]) ∧
    ctrlWord .stm32f3 d =
      (if d.em = .autoEnd then 0x02000000 else 0) ||| d.count.setWidth 32 <<< 16 |||
        (if d.dir = .read then 0x00000400 else 0) ||| d.sadd.setWidth 32 <<< 1

/-- R91, R92, R99: CTRL_READ reads CR2; TRIGGER_START, TRIGGER_STOP and WRITE_CTRL write the whole word they carry; and
TriggerStart and TriggerStop are the read and then the write with START or STOP set, bit 13 or bit 14 in the default
binding (log entry 1). -/
def Obligations.TriggersAreReadThenWrite : Prop :=
  (∀ s : State,
    Gives (exec .ctrlRead s) s s.cmd s.eng { s.ctl with cr2 := nextCtrl s.env } (afterCtrl s.env) (Memory.read s.mem)
      [.ctrlRead (nextCtrl s.env)] ∧
    (∀ value, Gives (exec (.writeCtrl value) s) s s.cmd s.eng { s.ctl with cr2 := value } s.env (Memory.read s.mem)
      [.writeCtrl (descriptorOf s.params.regif value)]) ∧
    (∀ value, Gives (exec (.triggerStart value) s) s s.cmd s.eng { s.ctl with cr2 := value } s.env (Memory.read s.mem)
      [.start]) ∧
    (∀ value, Gives (exec (.triggerStop value) s) s s.cmd s.eng { s.ctl with cr2 := value } s.env (Memory.read s.mem)
      [.stop]) ∧
    (∀ u, exec .ctrlRead s = .next u →
      exec (.triggerStart (u.ctl.cr2 ||| startBit s.params.regif)) u = .next (triggerStart s) ∧
      exec (.triggerStop (u.ctl.cr2 ||| stopBit s.params.regif)) u = .next (triggerStop s))) ∧
  startBit .stm32f3 = 0x00002000 ∧ stopBit .stm32f3 = 0x00004000

/-- R97, R120: a poll reads ISR once; its flags are the bits of the binding, in the default binding those R97 names (log
entry 1); no engine register changes. -/
def Obligations.PollReadsStatusFlags : Prop :=
  (∀ s : State,
    Gives (exec .pollStatus s) s s.cmd s.eng { s.ctl with isr := nextStatus s.env } (afterStatus s.env)
      (Memory.read s.mem) [.poll (flagsOf s.params.regif (nextStatus s.env))]) ∧
  ∀ isr : Word,
    let f := flagsOf .stm32f3 isr
    (f.busy = true ↔ isr &&& 0x8000 ≠ 0) ∧ (f.txis = true ↔ isr &&& 0x0002 ≠ 0) ∧
    (f.rxne = true ↔ isr &&& 0x0004 ≠ 0) ∧ (f.addr = true ↔ isr &&& 0x0008 ≠ 0) ∧
    (f.nackf = true ↔ isr &&& 0x0010 ≠ 0) ∧ (f.stopf = true ↔ isr &&& 0x0020 ≠ 0) ∧
    (f.tc = true ↔ isr &&& 0x0040 ≠ 0) ∧ (f.tcr = true ↔ isr &&& 0x0080 ≠ 0)

/-- R93, R94: TxWrite writes TXDR with the byte in TXDATA and every other bit 0; RxRead reads RXDR and keeps RXDATA alone;
both fields are bits 7..0 in the default binding (log entry 1). -/
def Obligations.DataRegisterAccesses : Prop :=
  (∀ s : State,
    (∀ x, Gives (exec (.txWrite x) s) s s.cmd s.eng { s.ctl with txdr := x.setWidth 32 <<< s.params.regif.txData } s.env
      (Memory.read s.mem) [.tx x]) ∧
    Gives (exec .rxRead s) s s.cmd s.eng { s.ctl with rxdr := nextRx s.env } (afterRx s.env) (Memory.read s.mem)
      [.rx ((nextRx s.env).extractLsb' s.params.regif.rxData 8)]) ∧
  Binding.stm32f3.txData = 0 ∧ Binding.stm32f3.rxData = 0

/-- R95, R96, R44: in a well-formed binding ClearNack clears NACKF alone and ClearStop clears STOPF alone; in the default
binding a write of ICR clears the ISR bits its ones name among bits 3, 4, 5 and 8 to 13 (log entries 1 and 16). -/
def Obligations.ClearsTouchOneFlag : Prop :=
  (∀ s : State, s.params.regif.WellFormed →
    (∃ c : Controller, c = { s.ctl with isr := c.isr } ∧
      (∀ j, c.isr.getLsbD j = (s.ctl.isr.getLsbD j && decide (j ≠ s.params.regif.isr.nackf))) ∧
      Gives (exec .clearNack s) s s.cmd s.eng c s.env (Memory.read s.mem) [.clearNack]) ∧
    (∃ c : Controller, c = { s.ctl with isr := c.isr } ∧
      (∀ j, c.isr.getLsbD j = (s.ctl.isr.getLsbD j && decide (j ≠ s.params.regif.isr.stopf))) ∧
      Gives (exec .clearStop s) s s.cmd s.eng c s.env (Memory.read s.mem) [.clearStop])) ∧
  ∀ value : Word, clearedBits .stm32f3 value = value &&& 0x00003F38

/-! ### The command accept (42_sequencer_and_operations.md R180 to R193) -/

/-- BYTE_READ is accepted in every quiescent state, whatever LEN and BUF hold (R180, R182, R190). -/
def Obligations.ByteReadIsAccepted : Prop :=
  ∀ (s : State) (sadd : BitVec 7) (raddr : Byte), s.eng.st.busy = false →
    Gives (exec (.byteRead sadd raddr) s) s (0x00000001 ||| sadd.setWidth 32 <<< 8 ||| raddr.setWidth 32 <<< 16)
      (acceptedEngine s .byteRead sadd raddr .awaitBusFree) s.ctl s.env (Memory.read s.mem) []

/-- What the accept of a burst with the count limit `limit` gives (R182 to R186). -/
def BurstAccept (i : Instr) (op : Op) (code : Word) (limit : Int) (s : State) (sadd : BitVec 7) (raddr : Byte) : Prop :=
  let w := code ||| sadd.setWidth 32 <<< 8 ||| raddr.setWidth 32 <<< 16
  (s.len.toInt ≤ 0 →
    Gives (exec i s) s w (acceptedEngine s op sadd raddr .done) s.ctl s.env (Memory.read s.mem) []) ∧
  (1 ≤ s.len.toInt → s.len.toInt ≤ limit →
    Gives (exec i s) s w (acceptedEngine s op sadd raddr .awaitBusFree) s.ctl s.env (Memory.read s.mem) []) ∧
  (limit < s.len.toInt → 1 ≤ s.len.toInt →
    Gives (exec i s) s w (acceptedEngine s op sadd raddr .aborted)
      { s.ctl with cr2 := nextCtrl s.env ||| stopBit s.params.regif } (afterCtrl s.env) (Memory.read s.mem) [.ctrlRead (nextCtrl s.env), .stop])

/-- R183 to R186: both bursts are done at once for n <= 0; BURST_READ is started for 1 to 255 and BURST_WRITE for 1 to
254; above that the command is rejected with one TriggerStop and nothing else. (A host write that would start a burst with a
buffer 20_memory.md R69 forbids never comes to run the command: `RefusedBuffersAreRefused`.) -/
def Obligations.BurstCountsAreChecked : Prop :=
  ∀ (s : State) (sadd : BitVec 7) (raddr : Byte), s.eng.st.busy = false →
    BurstAccept (.burstRead sadd raddr) .burstRead 0x00000002 255 s sadd raddr ∧
    BurstAccept (.burstWrite sadd raddr) .burstWrite 0x00000003 254 s sadd raddr

/-- R84, R193: a host write to CMD of a word with a reserved bit or a reserved OP ends in ILLEGAL in the accept step with
no port access, and leaves E.op, E.sadd, E.raddr, E.n, E.base and E.data as they were (CMD in overlapping register
windows: log entry 21). -/
def Obligations.IllegalWordEndsInIllegal : Prop :=
  ∀ (s : State) (w : Word) (rest : List Input), s.inputs = .write s.params.engineBase .word w :: rest →
    s.eng.st.busy = false →
    (w &&& 0xFF0080F0 ≠ 0 ∨ (w &&& 0xF ≠ 1 ∧ w &&& 0xF ≠ 2 ∧ w &&& 0xF ≠ 3)) →
    Gives (step s) (s.setInputs rest) w
      { s.eng with st := .illegal, idx := 0, phase := .first, stopCause := .complete, dataValid := false }
      s.ctl s.env (Memory.read s.mem) []

/-- R31, R181: while the engine is busy the hardware ignores a command, which is the meaning the three commands have; the
model refuses the host's write of CMD, whatever the word, as R181 and 70_reset_and_hazards.md R261 say (that the meaning
is kept beside the refusal is log entry 6; CMD in overlapping register windows: 21). -/
def Obligations.CommandWhileBusyIsIgnored : Prop :=
  ∀ s : State, s.eng.st.busy = true →
    (∀ sadd raddr, exec (.byteRead sadd raddr) s = .next s ∧ exec (.burstRead sadd raddr) s = .next s ∧
      exec (.burstWrite sadd raddr) s = .next s) ∧
    ∀ w rest, s.inputs = .write s.params.engineBase .word w :: rest → step s = .refused .commandWhileBusy

/-- 20_memory.md R69, U14: the host's write of a burst that would start with a buffer running past 2^ADDR_W, or with a byte
of it in a register window, is refused (that both come at the write of CMD is log entry 9; CMD in overlapping
register windows: 21). -/
def Obligations.RefusedBuffersAreRefused : Prop :=
  ∀ (s : State) (w : Word) (rest : List Input) (sadd : BitVec 7) (raddr : Byte),
    s.inputs = .write s.params.engineBase .word w :: rest → s.eng.st.busy = false → 1 ≤ s.len.toInt →
    ((decodeCmd w = .ok (.burstRead sadd raddr) ∧ s.len.toInt ≤ 255) ∨
      (decodeCmd w = .ok (.burstWrite sadd raddr) ∧ s.len.toInt ≤ 254)) →
    (2 ^ s.params.addrW < s.buf.toNat % 2 ^ s.params.addrW + s.len.toNat → step s = .refused .bufferWraps) ∧
    (s.buf.toNat % 2 ^ s.params.addrW + s.len.toNat ≤ 2 ^ s.params.addrW →
      (∃ k, k < s.len.toNat ∧ inRegisters s.params ((s.buf.toNat + k) % 2 ^ s.params.addrW) = true) →
      step s = .refused .bufferOverlapsRegisters)

/-- Every register-interface access answers a next state in every state, and every command does in every quiescent one
(R180; what a command does while the engine is busy: `CommandWhileBusyIsIgnored`). -/
def Obligations.EveryInstructionCompletes : Prop :=
  ∀ (i : Instr) (s : State), (i.isCommand = true → s.eng.st.busy = false) → ∃ t, exec i s = .next t

/-! ### The engine's steps (40_bus_guard_and_primitives.md, 41_transaction_engine.md) -/

/-- R121: the selection of a wait, for both values of NACK_PRIORITY. -/
def Obligations.SelectionFollowsPriority : Prop :=
  ∀ awaited nackf : Bool,
    select .nackFirst nackf awaited = (if nackf then .nack else if awaited then .ready else .none) ∧
    select .readyFirst nackf awaited = (if awaited then .ready else if nackf then .nack else .none)

/-- R141: the descriptors of each operation, and every count the checks admit is 1 to 255. -/
def Obligations.PhaseDescriptors : Prop :=
  ∀ e : Engine,
    (e.op = .byteRead → phase1 e = some ⟨e.sadd, .write, 1, .softwareEnd⟩ ∧ phase2 e = some ⟨e.sadd, .read, 1, .autoEnd⟩) ∧
    (e.op = .burstRead → e.Admitted → phase1 e = some ⟨e.sadd, .write, 1, .softwareEnd⟩ ∧
      ∃ c : Byte, phase2 e = some ⟨e.sadd, .read, c, .autoEnd⟩ ∧ (c.toNat : Int) = e.n.toInt ∧ 1 ≤ c.toNat) ∧
    (e.op = .burstWrite → e.Admitted → phase2 e = none ∧
      ∃ c : Byte, phase1 e = some ⟨e.sadd, .write, c, .autoEnd⟩ ∧ (c.toNat : Int) = e.n.toInt + 1 ∧ 1 ≤ c.toNat)

/-- R122: the Bus Guard spins while the poll shows BUSY and issues phase 1 as soon as it does not; no other flag counts. -/
def Obligations.BusGuardStep : Prop :=
  ∀ s : State, s.inputs = [] → s.eng.st = .awaitBusFree →
    ((polled s).busy = true → Spins s) ∧
    ∀ d, (polled s).busy = false → phase1 s.eng = some d → Issues s s.eng d

/-- R148: the registers after one more transferred byte; E.idx does not wrap and does not pass E.cur.count. -/
def Obligations.AfterByteMoves : Prop :=
  ∀ e : Engine,
    (e.idx + 1 = e.cur.count → e.cur.em = .softwareEnd →
      engineAfterByte e = { e with idx := e.idx + 1, st := .awaitTransferComplete }) ∧
    (e.idx + 1 = e.cur.count → e.cur.em = .autoEnd →
      engineAfterByte e = { e with idx := e.idx + 1, stopCause := .complete, st := .awaitStop }) ∧
    (e.idx + 1 ≠ e.cur.count → engineAfterByte e = { e with idx := e.idx + 1, st := .awaitByteReady }) ∧
    (e.idx < e.cur.count →
      (engineAfterByte e).idx.toNat = e.idx.toNat + 1 ∧ (engineAfterByte e).idx.toNat ≤ e.cur.count.toNat)

/-- R143, R144: a byte wait of a WRITE phase. Byte 0 is E.raddr; byte i is buffer byte i - 1, read in the step that
transmits it. A buffer byte in a register window is refused (20_memory.md R69; log entry 9). -/
def Obligations.WriteByteStep : Prop :=
  ∀ s : State, s.inputs = [] → (s.eng.st = .awaitAddrAck ∨ s.eng.st = .awaitByteReady) → s.eng.cur.dir = .write →
    let choice := select s.params.nackPriority (polled s).nackf (polled s).txis
    let a := (s.eng.base.toNat + (s.eng.idx.toNat - 1)) % 2 ^ s.params.addrW
    let b := Memory.read s.mem a
    (choice = .nack → Aborts s) ∧ (choice = .none → Spins s) ∧
    (choice = .ready → s.eng.idx = 0 →
      StepGives s (engineAfterByte s.eng)
        { polledCtl s with txdr := s.eng.raddr.setWidth 32 <<< s.params.regif.txData } (polledEnv s)
        (Memory.read s.mem) [.tx s.eng.raddr]) ∧
    (choice = .ready → s.eng.idx ≠ 0 → inRegisters s.params a = false →
      StepGives s (engineAfterByte s.eng) { polledCtl s with txdr := b.setWidth 32 <<< s.params.regif.txData }
        (polledEnv s) (Memory.read s.mem) [.memRead a b, .tx b]) ∧
    (choice = .ready → s.eng.idx ≠ 0 → inRegisters s.params a = true → step s = .refused .bufferOverlapsRegisters)

/-- R145, R146: a byte wait of a READ phase. The byte goes to E.data for BYTE_READ, else to `(E.base + E.idx) mod
2^ADDR_W`, and no other byte of memory changes. The refusal of a byte in a register window is log entry 9. -/
def Obligations.ReadByteStep : Prop :=
  ∀ s : State, s.inputs = [] → (s.eng.st = .awaitAddrAck ∨ s.eng.st = .awaitByteReady) → s.eng.cur.dir = .read →
    Memory.wf s.mem →
    let choice := select s.params.nackPriority (polled s).nackf (polled s).rxne
    let a := (s.eng.base.toNat + s.eng.idx.toNat) % 2 ^ s.params.addrW
    let b : Byte := (rxAnswer s).extractLsb' s.params.regif.rxData 8
    (choice = .nack → Aborts s) ∧ (choice = .none → Spins s) ∧
    (choice = .ready → s.eng.op = .byteRead →
      StepGives s (engineAfterByte { s.eng with data := b }) { polledCtl s with rxdr := rxAnswer s }
        (afterRx (polledEnv s)) (Memory.read s.mem) [.rx b]) ∧
    (choice = .ready → s.eng.op ≠ .byteRead → inRegisters s.params a = false →
      StepGives s (engineAfterByte s.eng) { polledCtl s with rxdr := rxAnswer s } (afterRx (polledEnv s))
        (fun x => if x = a then b else Memory.read s.mem x) [.rx b, .memWrite a b]) ∧
    (choice = .ready → s.eng.op ≠ .byteRead → inRegisters s.params a = true →
      step s = .refused .bufferOverlapsRegisters)

/-- R151, R156: TC in phase 1 of Read-register issues phase 2 as a RESTART, with no Bus Guard, STOP or clear before it;
TC anywhere else ends in DONE. -/
def Obligations.TransferCompleteStep : Prop :=
  ∀ s : State, s.inputs = [] → s.eng.st = .awaitTransferComplete →
    let choice := select s.params.nackPriority (polled s).nackf (polled s).tc
    (choice = .nack → Aborts s) ∧ (choice = .none → Spins s) ∧
    (choice = .ready → s.eng.phase = .first → (s.eng.op = .byteRead ∨ s.eng.op = .burstRead) →
      ∀ d, phase2 s.eng = some d → Issues s { s.eng with phase := .second } d) ∧
    (choice = .ready → ¬ (s.eng.phase = .first ∧ (s.eng.op = .byteRead ∨ s.eng.op = .burstRead)) →
      StepGives s { s.eng with st := .done } (polledCtl s) (polledEnv s) (Memory.read s.mem) [])

/-- R152: STOPF at the end of an AUTO_END phase is cleared and the operation is DONE; BYTE_READ's byte becomes valid. -/
def Obligations.StopCompleteStep : Prop :=
  ∀ s : State, s.inputs = [] → s.eng.st = .awaitStop → s.eng.stopCause = .complete →
    let choice := select s.params.nackPriority (polled s).nackf (polled s).stopf
    (choice = .nack → Aborts s) ∧ (choice = .none → Spins s) ∧
    (choice = .ready → s.eng.op = .byteRead →
      StepGives s { s.eng with dataValid := true, st := .done } (clearedCtl s (icrStop s.params.regif)) (polledEnv s)
        (Memory.read s.mem) [.clearStop]) ∧
    (choice = .ready → s.eng.op ≠ .byteRead →
      StepGives s { s.eng with st := .done } (clearedCtl s (icrStop s.params.regif)) (polledEnv s) (Memory.read s.mem)
        [.clearStop])

/-- R153, R162: on the abort path STOPF alone is tested, it is cleared, and the operation is ABORTED. -/
def Obligations.StopAbortStep : Prop :=
  ∀ s : State, s.inputs = [] → s.eng.st = .awaitStop → s.eng.stopCause = .abort →
    ((polled s).stopf = false → Spins s) ∧
    ((polled s).stopf = true →
      StepGives s { s.eng with st := .aborted } (clearedCtl s (icrStop s.params.regif)) (polledEnv s) (Memory.read s.mem)
        [.clearStop])

/-- R160: a poll that selects NACK in any of the four waits that test it takes the abort path's entry. -/
def Obligations.NackTakesAbortEntry : Prop :=
  ∀ s : State, s.inputs = [] → s.eng.nackTested = true →
    select s.params.nackPriority (polled s).nackf (s.eng.awaited (polled s)) = .nack → Aborts s

/-- R140: a quiescent engine takes no step: with no input pending, the state stays as it is. -/
def Obligations.QuiescentEngineTakesNoStep : Prop :=
  ∀ s : State, s.inputs = [] → s.eng.st.busy = false → step s = .next s

/-- R140: every step of a busy engine begins with exactly one poll. -/
def Obligations.BusyStepPollsOnce : Prop :=
  ∀ s t : State, s.inputs = [] → s.eng.st.busy = true → step s = .next t →
    ∃ events, t.trace = s.trace ++ .poll (polled s) :: events ∧ events.all (fun e => !e.isPoll) = true

/-- R127, R133: the engine's step requests a STOP exactly when its poll selects NACK in a wait that tests it. -/
def Obligations.StopRequestedOnlyOnNack : Prop :=
  ∀ s t : State, s.inputs = [] → step s = .next t →
    stopRequests t.trace =
      stopRequests s.trace +
        (if s.eng.nackTested ∧ select s.params.nackPriority (polled s).nackf (s.eng.awaited (polled s)) = .nack then 1
          else 0)

/-- R189, R195: an engine that meets the invariant leaves its busy states only from AWAIT_STOP, in a step whose poll
showed STOPF and that cleared it. -/
def Obligations.OperationEndsByClearingStop : Prop :=
  ∀ s t : State, s.Inv → s.inputs = [] → s.eng.st.busy = true → step s = .next t → t.eng.st.busy = false →
    s.eng.st = .awaitStop ∧ (polled s).stopf = true ∧ t.trace = s.trace ++ [.poll (polled s), .clearStop] ∧
      ((s.eng.stopCause = .complete ∧ t.eng.st = .done) ∨ (s.eng.stopCause = .abort ∧ t.eng.st = .aborted))

/-- The engine's step stops only at a byte of the running burst's buffer that lies in a register window: with the engine's
registers as the invariant has them, and the n bytes of a burst's buffer clear of the windows, it answers a next state; and
in a state of the invariant, whose buffer is so, it never stops (log entry 9). -/
def Obligations.EngineStopsOnlyAtRegisters : Prop :=
  (∀ s : State, s.eng.Inv → s.inputs = [] →
    (s.eng.op = .burstRead ∨ s.eng.op = .burstWrite →
      ∀ i, i < s.eng.n.toNat → inRegisters s.params (bufferAddr s.params s.eng i) = false) →
    ∃ t, step s = .next t) ∧
  ∀ s : State, s.Inv → s.inputs = [] → ∃ t, step s = .next t

/-- R20, R32: while the engine is busy, no step but a reset changes the operation, its addresses, its count or its
buffer, whatever the host does. -/
def Obligations.BusyEngineKeepsOperands : Prop :=
  ∀ s t : State, s.eng.st.busy = true → s.inputs.head? ≠ some .reset → step s = .next t →
    t.eng.op = s.eng.op ∧ t.eng.sadd = s.eng.sadd ∧ t.eng.raddr = s.eng.raddr ∧ t.eng.n = s.eng.n ∧
      t.eng.base = s.eng.base

/-- 10_state.md R38, R47: the engine's own step never writes CR1, TIMINGR, OAR1, OAR2, TIMEOUTR or PECR, nor a parameter or
a command register. -/
def Obligations.EngineLeavesConfiguration : Prop :=
  ∀ s t : State, s.inputs = [] → step s = .next t →
    t.ctl.cr1 = s.ctl.cr1 ∧ t.ctl.timingr = s.ctl.timingr ∧ t.ctl.oar1 = s.ctl.oar1 ∧ t.ctl.oar2 = s.ctl.oar2 ∧
      t.ctl.timeoutr = s.ctl.timeoutr ∧ t.ctl.pecr = s.ctl.pecr ∧ t.params = s.params ∧ t.cmd = s.cmd ∧
      t.len = s.len ∧ t.buf = s.buf ∧ t.hostReads = s.hostReads

/-- R37: a flag the state does not read has no effect: two answers that agree on the awaited flag and, where NACK is
tested, on NACKF give the same registers, memory and accesses. -/
def Obligations.UnreadFlagsHaveNoEffect : Prop :=
  ∀ (s t : State) (w v : Word) (rest : List Word), s.inputs = [] → s.env.status = w :: rest →
    s.eng.awaited (flagsOf s.params.regif w) = s.eng.awaited (flagsOf s.params.regif v) →
    (s.eng.nackTested = true → (flagsOf s.params.regif w).nackf = (flagsOf s.params.regif v).nackf) →
    step s = .next t →
    ∃ u, step (s.setEnv { s.env with status := v :: rest }) = .next u ∧ u.eng = t.eng ∧ u.mem = t.mem ∧
      (s.eng.st.busy = true → u.env = t.env ∧ ∃ events,
        t.trace = s.trace ++ .poll (flagsOf s.params.regif w) :: events ∧
        u.trace = s.trace ++ .poll (flagsOf s.params.regif v) :: events)

/-- R145: the received byte may be any value; it steers nothing: two answers to RxRead give the same registers but for
E.data, and the same addresses written. -/
def Obligations.ReceivedByteSteersNothing : Prop :=
  ∀ (s t : State) (w v : Word) (rest : List Word), s.inputs = [] → s.env.rx = w :: rest → Memory.wf s.mem →
    step s = .next t →
    ∃ u, step (s.setEnv { s.env with rx := v :: rest }) = .next u ∧ u.eng = { t.eng with data := u.eng.data } ∧
      ∀ a, (Memory.read t.mem a = Memory.read s.mem a ∧ Memory.read u.mem a = Memory.read s.mem a) ∨
        (Memory.read t.mem a = w.extractLsb' s.params.regif.rxData 8 ∧
          Memory.read u.mem a = v.extractLsb' s.params.regif.rxData 8)

/-- R63, R90, R91, R99: at register level, in a well-formed binding, the Bus Guard's step that finds the bus free is
POLL_STATUS, WRITE_CTRL with the descriptor's word, CTRL_READ and TRIGGER_START with START set in the word read. -/
def Obligations.GuardIsFourAccesses : Prop :=
  ∀ (s t u1 u2 u3 u4 : State) (d : Descriptor), s.params.regif.WellFormed → s.inputs = [] →
    s.eng.st = .awaitBusFree → (polled s).busy = false → phase1 s.eng = some d → step s = .next t →
    exec .pollStatus s = .next u1 → exec (.writeCtrl (ctrlWord s.params.regif d)) u1 = .next u2 →
    exec .ctrlRead u2 = .next u3 → exec (.triggerStart (u3.ctl.cr2 ||| startBit s.params.regif)) u3 = .next u4 →
    t.ctl = u4.ctl ∧ t.env = u4.env ∧ t.trace = u4.trace ∧ t.mem = u4.mem

/-! ### Whole operations (42_sequencer_and_operations.md R187 to R192) -/

/-- R187, R190: BYTE_READ from a slave that acknowledges everything is DONE five steps after its accept, with the
received byte in STATUS.DATA, DATA_VALID set, and memory unchanged; byte_read returns that byte (R87). -/
def Obligations.ByteReadDeliversByte : Prop :=
  ∀ (s s1 : State) (sadd : BitVec 7) (raddr : Byte) (words more rxMore : List Word) (rx : Word),
    s.inputs = [] → s.eng.st.busy = false → Shows s.params.regif words (readAcks 1) → s.env.status = words ++ more →
    s.env.rx = rx :: rxMore → exec (.byteRead sadd raddr) s = .next s1 →
    ∃ t : State, Sys2Proof.core.run 5 s1 = .next t ∧ t.eng.st = .done ∧ t.eng.dataValid = true ∧
      t.eng.data = rx.extractLsb' s.params.regif.rxData 8 ∧ t.eng.phase = .second ∧ t.eng.idx = 1 ∧
      t.eng.stopCause = .complete ∧
      Call.result (statusWord t.eng) (.byteRead sadd.toNat raddr.toNat) = some (.byte t.eng.data) ∧
      t.mem = s.mem ∧ t.env.status = more ∧ sentBytes t.trace = sentBytes s.trace ++ [raddr] ∧
      issuedDescriptors t.trace =
        issuedDescriptors s.trace ++ [⟨sadd, .write, 1, .softwareEnd⟩, ⟨sadd, .read, 1, .autoEnd⟩] ∧
      stopRequests t.trace = stopRequests s.trace

/-- R187, R191: BURST_READ of n bytes, 1 to 255, from a slave that acknowledges everything is DONE after its n + 4 steps
with the k-th received byte at buffer byte k, every other byte of memory as it was, and no STOP requested; burst_read
returns OK (R87). -/
def Obligations.BurstReadFillsBuffer : Prop :=
  ∀ (s s1 : State) (sadd : BitVec 7) (raddr : Byte) (words more rx rxMore : List Word),
    s.inputs = [] → s.eng.st.busy = false → Memory.wf s.mem → 1 ≤ s.len.toInt → s.len.toInt ≤ 255 →
    Shows s.params.regif words (readAcks s.len.toNat) → s.env.status = words ++ more → rx.length = s.len.toNat →
    s.env.rx = rx ++ rxMore → s.len.toNat ≤ 2 ^ s.params.addrW → exec (.burstRead sadd raddr) s = .next s1 →
    BufferClear s.params s1.eng s.len.toNat →
    ∃ t : State, Sys2Proof.core.run (s.len.toNat + 4) s1 = .next t ∧ t.eng.st = .done ∧ t.eng.dataValid = false ∧
      t.eng.phase = .second ∧ t.eng.idx.toNat = s.len.toNat ∧ t.eng.stopCause = .complete ∧
      (∀ k, (h : k < rx.length) → Memory.read t.mem (bufferAddr s.params s1.eng k) =
        rx[k].extractLsb' s.params.regif.rxData 8) ∧
      (∀ a, (∀ k, k < s.len.toNat → bufferAddr s.params s1.eng k ≠ a) → Memory.read t.mem a = Memory.read s.mem a) ∧
      t.env.status = more ∧ sentBytes t.trace = sentBytes s.trace ++ [raddr] ∧
      issuedDescriptors t.trace = issuedDescriptors s.trace ++
        [⟨sadd, .write, 1, .softwareEnd⟩, ⟨sadd, .read, s.len.setWidth 8, .autoEnd⟩] ∧
      stopRequests t.trace = stopRequests s.trace ∧
      Call.result (statusWord t.eng) (.burstRead sadd.toNat raddr.toNat s.len.toInt s.buf.toNat) = some .ok

/-- R188, R192: BURST_WRITE of n bytes, 1 to 254, to a slave that acknowledges everything is DONE after its n + 3 steps,
having handed the controller the pointer byte and then the n buffer bytes in order, with memory unchanged; burst_write
returns OK (R87). -/
def Obligations.BurstWriteSendsBuffer : Prop :=
  ∀ (s s1 : State) (sadd : BitVec 7) (raddr : Byte) (words more : List Word),
    s.inputs = [] → s.eng.st.busy = false → 1 ≤ s.len.toInt → s.len.toInt ≤ 254 →
    Shows s.params.regif words (writeAcks s.len.toNat) → s.env.status = words ++ more →
    exec (.burstWrite sadd raddr) s = .next s1 → BufferClear s.params s1.eng s.len.toNat →
    ∃ t : State, Sys2Proof.core.run (s.len.toNat + 3) s1 = .next t ∧ t.eng.st = .done ∧ t.eng.dataValid = false ∧
      t.eng.phase = .first ∧ t.eng.idx.toNat = s.len.toNat + 1 ∧ t.eng.stopCause = .complete ∧ t.mem = s.mem ∧
      t.env.status = more ∧
      sentBytes t.trace = sentBytes s.trace ++ raddr ::
        (List.range s.len.toNat).map (fun k => Memory.read s.mem (bufferAddr s.params s1.eng k)) ∧
      issuedDescriptors t.trace =
        issuedDescriptors s.trace ++ [⟨sadd, .write, s.len.setWidth 8 + 1, .autoEnd⟩] ∧
      stopRequests t.trace = stopRequests s.trace ∧
      Call.result (statusWord t.eng) (.burstWrite sadd.toNat raddr.toNat s.len.toInt s.buf.toNat) = some .ok

/-- R160, R161, R221, R227: a NACK in a wait that tests it, then any number of polls without STOPF, then STOPF: the
operation is ABORTED with E.idx and E.phase as they were at the NACK, one STOP requested and no byte moved, and the call
returns Aborted (R87). -/
def Obligations.NackAbortsOperation : Prop :=
  ∀ (s : State) (first last : Word) (between more : List Word), s.inputs = [] → s.eng.nackTested = true →
    s.env.status = first :: (between ++ last :: more) →
    select s.params.nackPriority (flagsOf s.params.regif first).nackf (s.eng.awaited (flagsOf s.params.regif first)) =
      .nack →
    (∀ w ∈ between, (flagsOf s.params.regif w).stopf = false) → (flagsOf s.params.regif last).stopf = true →
    ∃ t : State, Sys2Proof.core.run (between.length + 2) s = .next t ∧
      t.eng = { s.eng with st := .aborted, stopCause := .abort } ∧ t.mem = s.mem ∧
      stopRequests t.trace = stopRequests s.trace + 1 ∧ sentBytes t.trace = sentBytes s.trace ∧
      issuedDescriptors t.trace = issuedDescriptors s.trace ∧
      ∀ call : Call, Call.result (statusWord t.eng) call = some .aborted

/-- R123, R224, R260: as long as no poll shows the awaited flag, nor NACKF where it is tested, the engine waits: its
registers and memory stay as they are, however many steps it takes. -/
def Obligations.WaitsAreUnbounded : Prop :=
  ∀ (s : State) (words more : List Word), s.inputs = [] → s.eng.st.busy = true → s.env.status = words ++ more →
    (∀ w ∈ words, s.eng.awaited (flagsOf s.params.regif w) = false ∧
      (s.eng.nackTested = true → (flagsOf s.params.regif w).nackf = false)) →
    ∃ t : State, Sys2Proof.core.run words.length s = .next t ∧ t.eng = s.eng ∧ t.mem = s.mem ∧
      t.env.status = more ∧ t.trace = s.trace ++ words.map (fun w => .poll (flagsOf s.params.regif w))

/-! ### The invariant and reset -/

/-- R20 to R25, R147, R148: every step from a state that meets the invariant gives one that meets it, whatever the host
and the environment do. -/
def Obligations.StepKeepsInvariant : Prop := ∀ s t : State, s.Inv → step s = .next t → t.Inv

/-- The reset state meets the invariant. -/
def Obligations.ResetMeetsInvariant : Prop := State.reset.Inv

/-- R250, R251: reset, at any moment, sets every internal and command register to 0 with E.st = IDLE and STATUS = 0, and
performs no port access; the state after power-on has the same registers. -/
def Obligations.ResetClearsEngine : Prop :=
  (∀ (s : State) (rest : List Input), s.inputs = .reset :: rest →
    ∃ t, step s = .next t ∧ t.eng = State.reset.eng ∧ t.cmd = 0 ∧ t.len = 0 ∧ t.buf = 0 ∧ t.ctl = s.ctl ∧
      t.env = s.env ∧ t.mem = s.mem ∧ t.trace = s.trace ∧ t.inputs = rest) ∧
  State.reset.eng = ⟨.idle, .none, 0, 0, 0, 0, .first, ⟨.write, 0, .softwareEnd⟩, 0, .complete, 0, false⟩ ∧
  State.reset.cmd = 0 ∧ State.reset.len = 0 ∧ State.reset.buf = 0 ∧ statusWord State.reset.eng = 0 ∧
  State.reset.eng.st.busy = false ∧ State.reset.trace = []

/-- R252: the controller's own reset, at any moment, leaves its registers at the binding's reset values, and changes nothing
else; in the default binding they are 10_state.md R40's, ISR = 1 and every other 0, so it is disabled and shows no flag a
wait reads (log entries 1 and 13). -/
def Obligations.ControllerResetRestoresRegisters : Prop :=
  (∀ (s : State) (rest : List Input), s.inputs = .resetController :: rest →
    step s = .next ((s.setInputs rest).setCtl s.params.regif.reset)) ∧
  Binding.stm32f3.reset =
    { cr1 := 0, cr2 := 0, oar1 := 0, oar2 := 0, timingr := 0, timeoutr := 0, isr := 0x00000001, pecr := 0, rxdr := 0,
      txdr := 0 } ∧
  enabled .stm32f3 Binding.stm32f3.reset = false ∧
  flagsOf .stm32f3 Binding.stm32f3.reset.isr = ⟨false, false, false, false, false, false, false, false⟩

/-- A write keeps memory canonical and changes one byte: a read gives the byte written at its address and what it gave
before everywhere else. -/
def Obligations.MemoryWriteChangesOneByte : Prop :=
  ∀ (m : Memory) (a c : Nat) (b : Byte), Memory.wf m →
    Memory.wf (Memory.write m a b) ∧ Memory.read (Memory.write m a b) c = if c = a then b else Memory.read m c

/-! ### The host's port

A statement about the host's access to a command register holds for every ENGINE_BASE and REG_BASE; where the controller's
window overlaps the command registers' or a base is no multiple of 4, which the spec leaves open, it rests on log entry 21. -/

/-- R34, R22, R30: the bits of STATUS, with the code of each FSM state, BUSY in codes 1 to 5 and the results 6 = OK,
7 = ABORTED, 8 = ILLEGAL, 0 = no operation since reset; a read returns them and a write is ignored (in
overlapping register windows: log entry 21). -/
def Obligations.StatusIsAViewOfTheEngine : Prop :=
  (∀ e : Engine,
    (statusWord e).extractLsb' 0 4 =
      (match e.st with
        | .idle => 0#4
        | .awaitBusFree => 1#4
        | .awaitAddrAck => 2#4
        | .awaitByteReady => 3#4
        | .awaitTransferComplete => 4#4
        | .awaitStop => 5#4
        | .done => 6#4
        | .aborted => 7#4
        | .illegal => 8#4) ∧
    ((statusWord e).getLsbD 4 = true ↔
      1 ≤ ((statusWord e).extractLsb' 0 4).toNat ∧ ((statusWord e).extractLsb' 0 4).toNat ≤ 5) ∧
    (statusWord e).getLsbD 5 = e.dataValid ∧ (statusWord e).getLsbD 6 = decide (e.phase = .second) ∧
    (statusWord e).getLsbD 7 = decide (e.stopCause = .abort) ∧ (statusWord e).extractLsb' 8 8 = e.data ∧
    (statusWord e).extractLsb' 16 8 = e.idx ∧ (statusWord e).extractLsb' 24 8 = 0) ∧
  ∀ (s : State) (rest : List Input),
    (∀ value, s.inputs = .write (s.params.engineBase + 0xC) .word value :: rest → step s = .next (s.setInputs rest)) ∧
    (s.inputs = .read (s.params.engineBase + 0xC) .word :: rest →
      step s = .next ((s.setInputs rest).answerHost (statusWord s.eng)))

/-- R31 to R33: LEN and BUF are written in any state and change nothing else; CMD, LEN and BUF are read back without any
other effect (in overlapping register windows: log entry 21). -/
def Obligations.CommandRegistersAreStorage : Prop :=
  ∀ (s : State) (rest : List Input),
    (∀ value, s.inputs = .write (s.params.engineBase + 0x4) .word value :: rest →
      step s = .next ((s.setInputs rest).setLen value)) ∧
    (∀ value, s.inputs = .write (s.params.engineBase + 0x8) .word value :: rest →
      step s = .next ((s.setInputs rest).setBuf value)) ∧
    (s.inputs = .read s.params.engineBase .word :: rest → step s = .next ((s.setInputs rest).answerHost s.cmd)) ∧
    (s.inputs = .read (s.params.engineBase + 0x4) .word :: rest →
      step s = .next ((s.setInputs rest).answerHost s.len)) ∧
    (s.inputs = .read (s.params.engineBase + 0x8) .word :: rest →
      step s = .next ((s.setInputs rest).answerHost s.buf))

/-- R67: a byte or half-word access to the command registers, or a word access that does not stand on one of them, is
refused (log entry 10; in overlapping register windows, or with an unaligned base: 21). -/
def Obligations.NarrowRegisterAccessIsRefused : Prop :=
  ∀ (s : State) (rest : List Input) (offset : Nat) (size : Size), offset < 16 → (size ≠ .word ∨ offset % 4 ≠ 0) →
    (∀ value, s.inputs = .write (s.params.engineBase + BitVec.ofNat 32 offset) size value :: rest →
      step s = .refused .narrowOrUnaligned) ∧
    (s.inputs = .read (s.params.engineBase + BitVec.ofNat 32 offset) size :: rest →
      step s = .refused .narrowOrUnaligned)

/-- R62: while a burst runs, a host access of any width that reaches a byte of its buffer is refused (log entry 10). An
access that reaches a register window or passes 2^ADDR_W is that access's own case. -/
def Obligations.BorrowedBufferIsRefused : Prop :=
  ∀ (s : State) (rest : List Input) (addr : Word) (size : Size) (k i : Nat), s.eng.st.busy = true →
    (s.eng.op = .burstRead ∨ s.eng.op = .burstWrite) → i < s.eng.n.toNat → s.eng.n.toNat ≤ 2 ^ s.params.addrW →
    k < size.bytes → (addr + BitVec.ofNat 32 k).toNat = bufferAddr s.params s.eng i →
    (∀ j, j < size.bytes → (addr + BitVec.ofNat 32 j).toNat < 2 ^ s.params.addrW ∧
      inRegisters s.params (addr + BitVec.ofNat 32 j).toNat = false) →
    (∀ value, s.inputs = .write addr size value :: rest → step s = .refused .bufferBorrowed) ∧
    (s.inputs = .read addr size :: rest → step s = .refused .bufferBorrowed)

/-- 70_reset_and_hazards.md R254: from a quiescent engine whose controller has TIMEOUTR = 0, as its reset leaves it, the
initialising writes leave the controller enabled with TIMINGR = TIMING, no interrupt or DMA enable and no timeout, TIMEOUTR
untouched (10_state.md R47), and the host may issue a command (log entry 11). -/
def Obligations.InitialisationReadiesController : Prop :=
  ∀ s : State, s.eng.st.busy = false → s.inputs = initialise s.params → s.params.regif.WellFormed →
    WindowsDisjoint s.params → s.ctl.timeoutr = 0 →
    ∃ t : State, Sys2Proof.core.run 3 s = .next t ∧
      t.ctl = { s.ctl with cr1 := bit s.params.regif.pe, timingr := s.params.timing } ∧ t.hostReady = true ∧
      t.eng = s.eng ∧ t.trace = s.trace

/-- R87, U6: the host may take BYTE_READ's result exactly when DATA_VALID = 1 (log entry 12). -/
def Obligations.ResultIsTakenWhenValid : Prop :=
  ∀ (s : State) (rest : List Input), s.inputs = .takeData :: rest →
    (s.eng.dataValid = true → step s = .next ((s.setInputs rest).answerHost (s.eng.data.setWidth 32))) ∧
    (s.eng.dataValid = false → step s = .fault .dataNotValid)

/-- R86, R260: a `tick` lets the engine step; WAIT lets it step for as long as it is busy, and then reads STATUS
(the model's inputs: log entry 8). -/
def Obligations.WaitReadsStatusWhenQuiescent : Prop :=
  ∀ (s : State) (rest : List Input),
    (s.inputs = .tick :: rest → ∀ t, step (s.setInputs []) = .next t → step s = .next (t.setInputs rest)) ∧
    (s.inputs = .wait :: rest → s.eng.st.busy = false →
      step s = .next ((s.setInputs rest).answerHost (statusWord s.eng))) ∧
    (s.inputs = .wait :: rest → s.eng.st.busy = true →
      ∀ t, step (s.setInputs []) = .next t → step s = .next (t.setInputs (.wait :: rest)))

/-- 70_reset_and_hazards.md R261: while the engine is busy, a host access to a register of the controller is refused
(log entry 10; a host write of CMD then: `CommandWhileBusyIsIgnored`). -/
def Obligations.ControllerIsOwnedWhileBusy : Prop :=
  ∀ (s : State) (rest : List Input) (offset : Byte), s.eng.st.busy = true →
    offset.toNat + 4 ≤ s.params.regif.window → WindowsDisjoint s.params →
    (∀ value, s.inputs = .write (s.params.regBase + offset.setWidth 32) .word value :: rest →
      step s = .refused .controllerOwned) ∧
    (s.inputs = .read (s.params.regBase + offset.setWidth 32) .word :: rest → step s = .refused .controllerOwned)

/-- R86, R87: the call forms assemble to their host accesses, with LEN the two's complement of n and the command word
`OP | slave << 8 | addr << 16`, exactly when every operand is in its range. -/
def Obligations.CallsAssembleToAccesses : Prop :=
  ∀ (p : Params) (slave addr buffer : Nat) (n : Int),
    let fits := slave < 128 ∧ addr < 256 ∧ (-2 ^ 31 ≤ n ∧ n < 2 ^ 31) ∧ buffer < 2 ^ p.addrW
    let word (op : Nat) : Word := BitVec.ofNat 32 (op + slave * 256 + addr * 65536)
    let burst (op : Nat) : List Input :=
      [.write (p.engineBase + 4) .word (BitVec.ofInt 32 n), .write (p.engineBase + 8) .word (BitVec.ofNat 32 buffer),
        .write p.engineBase .word (word op), .wait]
    (slave < 128 ∧ addr < 256 →
      assembleAll p (Call.byteRead slave addr).expand = some [.write p.engineBase .word (word 1), .wait]) ∧
    (¬ (slave < 128 ∧ addr < 256) → assembleAll p (Call.byteRead slave addr).expand = none) ∧
    (fits → assembleAll p (Call.burstRead slave addr n buffer).expand = some (burst 2) ∧
      assembleAll p (Call.burstWrite slave addr n buffer).expand = some (burst 3)) ∧
    (¬ fits → assembleAll p (Call.burstRead slave addr n buffer).expand = none ∧
      assembleAll p (Call.burstWrite slave addr n buffer).expand = none)

/-- R87: what each call returns from the STATUS value its WAIT gives: byte_read the byte in DATA when STATE is DONE and
Aborted otherwise; a burst OK in DONE and Aborted in ABORTED. -/
def Obligations.CallResultsFollowState : Prop :=
  ∀ (e : Engine) (slave addr buffer : Nat) (n : Int),
    Call.result (statusWord e) (.byteRead slave addr) = some (if e.st = .done then .byte e.data else .aborted) ∧
    (e.st = .done → Call.result (statusWord e) (.burstRead slave addr n buffer) = some .ok ∧
      Call.result (statusWord e) (.burstWrite slave addr n buffer) = some .ok) ∧
    (e.st = .aborted → Call.result (statusWord e) (.burstRead slave addr n buffer) = some .aborted ∧
      Call.result (statusWord e) (.burstWrite slave addr n buffer) = some .aborted)
end

