-- ==== Sys2Proof/Laws/Codes.lean ====
section
/-! SUPPORT. The codes bit by bit: the fields of a command word, of an access key and of a CR2 word, and what the rows of
R99 match, for every well-formed binding. -/

namespace Sys2Proof

theorem cmdWord_op (op : BitVec 4) (sadd : BitVec 7) (raddr : Byte) : (cmdWord op sadd raddr).extractLsb' 0 4 = op := by
  apply BitVec.eq_of_getLsbD_eq
  intro i hi
  have h1 : i < 8 := by omega
  have h2 : i < 16 := by omega
  have h3 : i < 32 := by omega
  simp [cmdWord, hi, h1, h2, h3]

theorem cmdWord_sadd (op : BitVec 4) (sadd : BitVec 7) (raddr : Byte) :
    (cmdWord op sadd raddr).extractLsb' 8 7 = sadd := by
  apply BitVec.eq_of_getLsbD_eq
  intro i hi
  have high : op.getLsbD (8 + i) = false := BitVec.getLsbD_of_ge _ _ (by omega)
  have h2 : 8 + i < 16 := by omega
  have h3 : 8 + i < 32 := by omega
  simp [cmdWord, hi, high, h2, h3]

theorem cmdWord_raddr (op : BitVec 4) (sadd : BitVec 7) (raddr : Byte) :
    (cmdWord op sadd raddr).extractLsb' 16 8 = raddr := by
  apply BitVec.eq_of_getLsbD_eq
  intro i hi
  have high_op : op.getLsbD (16 + i) = false := BitVec.getLsbD_of_ge _ _ (by omega)
  have high_sadd : sadd.getLsbD (16 + i - 8) = false := BitVec.getLsbD_of_ge _ _ (by omega)
  have h3 : 16 + i < 32 := by omega
  simp [cmdWord, hi, high_op, high_sadd, h3]

/-! ### Access keys -/

theorem accessKey_write (w : BitVec 1) (offset : Byte) (value : Word) : (accessKey w offset value).extractLsb' 40 1 = w := by
  apply BitVec.eq_of_getLsbD_eq
  intro i hi
  have high_offset : offset.getLsbD (40 + i - 32) = false := BitVec.getLsbD_of_ge _ _ (by omega)
  have high_value : value.getLsbD (40 + i) = false := BitVec.getLsbD_of_ge _ _ (by omega)
  have h1 : 40 + i < 41 := by omega
  simp [accessKey, hi, high_offset, high_value, h1]

theorem accessKey_offset (w : BitVec 1) (offset : Byte) (value : Word) :
    (accessKey w offset value).extractLsb' 32 8 = offset := by
  apply BitVec.eq_of_getLsbD_eq
  intro i hi
  have h1 : 32 + i < 41 := by omega
  have h2 : 32 + i < 40 := by omega
  simp [accessKey, hi, h1, h2]

@[simp] theorem keyValue_accessKey (w : BitVec 1) (offset : Byte) (value : Word) :
    keyValue (accessKey w offset value) = value := by
  apply BitVec.eq_of_getLsbD_eq
  intro i hi
  have h1 : i < 41 := by omega
  have h2 : i < 40 := by omega
  simp [keyValue, accessKey, hi, h1, h2]

/-- A key is its three fields. -/
theorem accessKey_inj {w v : BitVec 1} {o q : Byte} {x y : Word} :
    accessKey w o x = accessKey v q y ↔ w = v ∧ o = q ∧ x = y := by
  constructor
  · intro h
    exact ⟨by rw [← accessKey_write w o x, h, accessKey_write], by rw [← accessKey_offset w o x, h, accessKey_offset],
      by rw [← keyValue_accessKey w o x, h, keyValue_accessKey]⟩
  · rintro ⟨rfl, rfl, rfl⟩
    rfl

theorem key_eq_accessKey (k : Key) : k = accessKey (k.extractLsb' 40 1) (k.extractLsb' 32 8) (keyValue k) := by
  apply BitVec.eq_of_getLsbD_eq
  intro i hi
  by_cases h1 : i < 32
  · have h2 : i < 40 := by omega
    simp [accessKey, keyValue, hi, h1, h2]
  · by_cases h2 : i < 40
    · have h3 : i - 32 < 8 := by omega
      have h4 : 32 + (i - 32) = i := by omega
      simp [accessKey, keyValue, hi, h1, h2, h3, h4]
    · obtain rfl : i = 40 := by omega
      simp [accessKey, keyValue]

/-- The conjunction of two keys is that of their fields. -/
theorem accessKey_and (w v : BitVec 1) (o q : Byte) (x y : Word) :
    accessKey w o x &&& accessKey v q y = accessKey (w &&& v) (o &&& q) (x &&& y) := by
  apply BitVec.eq_of_getLsbD_eq
  intro i hi
  by_cases h1 : i < 32
  · have h2 : i < 40 := by omega
    simp [accessKey, hi, h1, h2]
  · have hx : x.getLsbD i = false := BitVec.getLsbD_of_ge _ _ (by omega)
    have hy : y.getLsbD i = false := BitVec.getLsbD_of_ge _ _ (by omega)
    by_cases h2 : i < 40
    · simp [accessKey, hi, h1, h2, hx, hy]
    · obtain rfl : i = 40 := by omega
      simp [accessKey]

/-- A mask over W, OFFSET and some bits of VALUE. -/
theorem accessKey_and_mask (w : BitVec 1) (o : Byte) (x m : Word) :
    accessKey w o x &&& accessKey 1 0xFF m = accessKey w o (x &&& m) := by
  have hw : w &&& 1 = w := BitVec.and_allOnes (x := w)
  have ho : o &&& 0xFF = o := BitVec.and_allOnes (x := o)
  rw [accessKey_and, hw, ho]

/-- A read row matches the reads of its register. -/
theorem readRow_hits (q : Byte) (w : BitVec 1) (o : Byte) (x : Word) :
    (readRow q).hits (accessKey w o x) = true ↔ w = 0 ∧ o = q := by
  unfold readRow KeyRow.hits
  rw [beq_iff_eq, accessKey_and_mask, accessKey_inj]
  simp

/-- A write row matches the writes of its register whose value has the row's bits under its mask. -/
theorem writeRow_hits (q : Byte) (m v : Word) (w : BitVec 1) (o : Byte) (x : Word) :
    (writeRow q m v).hits (accessKey w o x) = true ↔ w = 1 ∧ o = q ∧ x &&& m = v := by
  unfold writeRow KeyRow.hits
  rw [beq_iff_eq, accessKey_and_mask, accessKey_inj]

/-! ### Single bits and fields -/

theorem getLsbD_bit (n i : Nat) : (bit n).getLsbD i = (decide (i < 32) && decide (i = n)) := by
  unfold bit
  by_cases hi : i < 32
  · by_cases h : i = n
    · subst h; simp [hi]
    · by_cases hn : i < n
      · simp [hi, hn, h]
      · have : i - n ≠ 0 := by omega
        simp [hi, h, hn, this]
  · simp [hi]

theorem getElem_bit (n i : Nat) (h : i < 32) : (bit n)[i] = decide (i = n) := by
  have := getLsbD_bit n i
  rw [BitVec.getLsbD_eq_getElem h] at this
  simpa [h] using this

theorem bit_ne {m n : Nat} (hm : m < 32) (h : m ≠ n) : bit m ≠ bit n := by
  intro e
  have at_m : (bit m).getLsbD m = (bit n).getLsbD m := by rw [e]
  rw [getLsbD_bit, getLsbD_bit] at at_m
  simp [hm, h] at at_m

theorem bit_ne_zero {n : Nat} (hn : n < 32) : bit n ≠ 0 := by
  intro e
  have at_n : (bit n).getLsbD n = (0 : Word).getLsbD n := by rw [e]
  rw [getLsbD_bit] at at_n
  simp [hn] at at_n

/-- A byte placed at a bit reads back. -/
theorem extract_shiftLeft_byte (x : Byte) (n : Nat) (h : n + 8 ≤ 32) : (x.setWidth 32 <<< n).extractLsb' n 8 = x := by
  apply BitVec.eq_of_getLsbD_eq
  intro i hi
  have h1 : n + i < 32 := by omega
  simp [hi, h1]

/-- The word TxWrite writes has no bit outside TXDATA. -/
theorem txWord_and_mask (b : Binding) (x : Byte) : txWord b x &&& ~~~txWord b 0xFF = 0 := by
  apply BitVec.eq_of_getLsbD_eq
  intro i hi
  have all : ∀ j, j < 8 → (255#32).getLsbD j = true := by decide
  by_cases h1 : i < b.txData
  · simp [txWord, hi, h1]
  · by_cases h2 : i - b.txData < 8
    · have low := all _ h2
      rw [BitVec.getLsbD_eq_getElem (by omega)] at low
      simp [txWord, hi, h1, low]
    · have : x.getLsbD (i - b.txData) = false := BitVec.getLsbD_of_ge _ _ (by omega)
      simp [txWord, hi, h1, this]

namespace Machine

/-- ClearNack clears NACKF alone. -/
theorem clearedBits_nack {b : Binding} (h : b.WellFormed) : clearedBits b (icrNack b) = bit b.isr.nackf := by
  obtain ⟨hn, hs⟩ := h.clearsFit
  obtain ⟨hne, ho⟩ := h.clears
  have others : ∀ l : List (Nat × Nat), (∀ c ∈ l, c.1 ≠ b.icr.nackcf) →
      l.foldr (fun c m => clearedBit (icrNack b) c ||| m) 0 = 0 := by
    intro l hl
    induction l with
    | nil => rfl
    | cons c rest ih =>
      have hc : c.1 ≠ b.icr.nackcf := hl c (by simp)
      rw [List.foldr_cons, ih fun x hx => hl x (by simp [hx])]
      simp [clearedBit, icrNack, getLsbD_bit, hc]
  simp only [clearedBits, List.foldr_cons, others b.icr.others fun c hc => (ho c hc).1]
  simp [clearedBit, icrNack, getLsbD_bit, hn, Ne.symm hne]

/-- ClearStop clears STOPF alone. -/
theorem clearedBits_stop {b : Binding} (h : b.WellFormed) : clearedBits b (icrStop b) = bit b.isr.stopf := by
  obtain ⟨hn, hs⟩ := h.clearsFit
  obtain ⟨hne, ho⟩ := h.clears
  have others : ∀ l : List (Nat × Nat), (∀ c ∈ l, c.1 ≠ b.icr.stopcf) →
      l.foldr (fun c m => clearedBit (icrStop b) c ||| m) 0 = 0 := by
    intro l hl
    induction l with
    | nil => rfl
    | cons c rest ih =>
      have hc : c.1 ≠ b.icr.stopcf := hl c (by simp)
      rw [List.foldr_cons, ih fun x hx => hl x (by simp [hx])]
      simp [clearedBit, icrStop, getLsbD_bit, hc]
  simp only [clearedBits, List.foldr_cons, others b.icr.others fun c hc => (ho c hc).2]
  simp [clearedBit, icrStop, getLsbD_bit, hs, hne]

/-! ### The CR2 word -/

/-- A field placed at bit `p` shows nothing at a bit of a field apart from it. -/
theorem getLsbD_apart {n : Nat} (x : BitVec n) (p q w i : Nat) (h : Apart (p, n) (q, w)) (hi : i < w) :
    (x.setWidth 32 <<< p).getLsbD (q + i) = false := by
  rcases h with h | h
  · have : x.getLsbD (q + i - p) = false := BitVec.getLsbD_of_ge _ _ (by simp only at h; omega)
    simp [this]
  · have : q + i < p := by simp only at h; omega
    simp [this]

/-- A field placed at bit `p` reads back there. -/
theorem getLsbD_place {n : Nat} (x : BitVec n) (p i : Nat) (h : p + n ≤ 32) (hi : i < n) :
    (x.setWidth 32 <<< p).getLsbD (p + i) = x.getLsbD i := by
  have h1 : p + i < 32 := by omega
  simp [h1]

/-- The CR2 word of a descriptor gives the descriptor back. -/
theorem descriptorOf_ctrlWord {b : Binding} (h : b.WellFormed) (d : Descriptor) : descriptorOf b (ctrlWord b d) = d := by
  have hp := h.control
  have hf := h.controlFits
  simp only [ControlBits.fields, List.pairwise_cons, List.mem_cons, List.not_mem_nil, or_false, forall_eq_or_imp,
    forall_eq] at hp hf
  obtain ⟨⟨sr, -, -, sn, sa⟩, ⟨-, -, rn, ra⟩, -, -, na, -⟩ := hp
  obtain ⟨fs, fr, -, -, fn, fa⟩ := hf
  have swap : ∀ {f g : Nat × Nat}, Apart f g → Apart g f := fun h => h.symm
  obtain ⟨sadd, dir, count, em⟩ := d
  have hs : (ctrlWord b ⟨sadd, dir, count, em⟩).extractLsb' b.cr2.sadd 7 = sadd := by
    apply BitVec.eq_of_getLsbD_eq
    intro i hi
    simp only [BitVec.getLsbD_extractLsb', hi, decide_true, Bool.true_and, ctrlWord, BitVec.getLsbD_or,
      getLsbD_place sadd _ _ fs hi, getLsbD_apart (dirBit dir) _ _ _ _ (swap sr) hi,
      getLsbD_apart count _ _ _ _ (swap sn) hi, getLsbD_apart (autoEndBit em) _ _ _ _ (swap sa) hi, Bool.false_or]
  have hc : (ctrlWord b ⟨sadd, dir, count, em⟩).extractLsb' b.cr2.nbytes 8 = count := by
    apply BitVec.eq_of_getLsbD_eq
    intro i hi
    simp only [BitVec.getLsbD_extractLsb', hi, decide_true, Bool.true_and, ctrlWord, BitVec.getLsbD_or,
      getLsbD_place count _ _ fn hi, getLsbD_apart sadd _ _ _ _ sn hi, getLsbD_apart (dirBit dir) _ _ _ _ rn hi,
      getLsbD_apart (autoEndBit em) _ _ _ _ (swap na) hi, Bool.false_or, Bool.or_false]
  have hd : (ctrlWord b ⟨sadd, dir, count, em⟩).getLsbD (b.cr2.rdWrn + 0) = (dirBit dir).getLsbD 0 := by
    simp only [ctrlWord, BitVec.getLsbD_or, getLsbD_place (dirBit dir) _ _ fr Nat.zero_lt_one,
      getLsbD_apart sadd _ _ _ _ sr Nat.zero_lt_one, getLsbD_apart count _ _ _ _ (swap rn) Nat.zero_lt_one,
      getLsbD_apart (autoEndBit em) _ _ _ _ (swap ra) Nat.zero_lt_one, Bool.false_or, Bool.or_false]
  have he : (ctrlWord b ⟨sadd, dir, count, em⟩).getLsbD (b.cr2.autoEnd + 0) = (autoEndBit em).getLsbD 0 := by
    simp only [ctrlWord, BitVec.getLsbD_or, getLsbD_place (autoEndBit em) _ _ fa Nat.zero_lt_one,
      getLsbD_apart sadd _ _ _ _ sa Nat.zero_lt_one, getLsbD_apart (dirBit dir) _ _ _ _ ra Nat.zero_lt_one,
      getLsbD_apart count _ _ _ _ na Nat.zero_lt_one, Bool.or_false]
  simp only [Nat.add_zero] at hd he
  unfold descriptorOf
  rw [hs, hc, hd, he]
  cases dir <;> cases em <;> rfl

end Machine

/-! ### The default binding -/

theorem wellFormed_stm32f3 : Binding.stm32f3.WellFormed where
  offsets := by decide
  inWindow := by decide
  control := by unfold Apart; decide
  controlFits := by decide
  flags := by decide
  flagsFit := by decide
  clears := by decide
  clearsFit := by decide
  dataFits := by decide
  enable := by decide

end Sys2Proof
end

