-- ==== Sys2Proof/Laws/Memory.lean ====
section
/-! SUPPORT. The buffer memory: a read after a write, and the canonical form. -/

namespace Sys2Proof.Machine

theorem Memory.read_nil (a : Nat) : Memory.read [] a = blankByte := rfl

theorem Memory.read_append_cell (a c : Nat) (b : Byte) (m : Memory) (fresh : ∀ x ∈ m, a < x.1) :
    Memory.read (Memory.cell a b ++ m) c = if c = a then b else Memory.read m c := by
  have blank_at : Memory.read m a = blankByte := by
    induction m with
    | nil => rfl
    | cons x rest ih =>
      have hx := fresh x (by simp)
      have : x.1 ≠ a := by omega
      simp only [Memory.read, this, if_false]
      exact ih fun y hy => fresh y (by simp [hy])
  unfold Memory.cell
  split
  · next h =>
    split
    · next hc => subst hc; simp [blank_at, h]
    · simp
  · simp only [List.cons_append, List.nil_append, Memory.read]
    by_cases hc : c = a
    · simp [hc]
    · have : a ≠ c := fun h => hc h.symm
      simp [hc, this]

/-- A read after a write: the written byte at its address, every other byte as before. -/
theorem Memory.read_write (m : Memory) (a c : Nat) (b : Byte) (h : Memory.wf m) :
    Memory.read (Memory.write m a b) c = if c = a then b else Memory.read m c := by
  induction m with
  | nil => simpa [Memory.write, Memory.read] using Memory.read_append_cell a c b [] (by simp)
  | cons x rest ih =>
    obtain ⟨k, v⟩ := x
    obtain ⟨hp, hb⟩ := h
    rw [List.pairwise_cons] at hp
    have hrest : Memory.wf rest := ⟨hp.2, fun y hy => hb y (by simp [hy])⟩
    unfold Memory.write
    split
    · next hlt =>
      apply Memory.read_append_cell
      intro y hy
      rcases List.mem_cons.1 hy with rfl | hy
      · exact hlt
      · exact Nat.lt_trans hlt (hp.1 y hy)
    · split
      · next heq =>
        subst heq
        rw [Memory.read_append_cell _ _ _ _ fun y hy => hp.1 y hy]
        by_cases hc : c = a
        · simp [hc]
        · have : a ≠ c := fun h => hc h.symm
          simp [hc, Memory.read, this]
      · next hge hne =>
        simp only [Memory.read]
        by_cases hk : k = c
        · subst hk; simp [Ne.symm hne]
        · simp only [hk, if_false]
          exact ih hrest

theorem Memory.mem_write (m : Memory) (a : Nat) (b : Byte) (x : Host.Cell) (h : x ∈ Memory.write m a b) :
    (x = (a, b) ∧ b ≠ blankByte) ∨ x ∈ m := by
  have in_cell : ∀ y : Host.Cell, y ∈ Memory.cell a b → y = (a, b) ∧ b ≠ blankByte := by
    intro y hy
    unfold Memory.cell at hy
    split at hy
    · simp at hy
    · exact ⟨by simpa using hy, ‹_›⟩
  induction m with
  | nil => exact Or.inl (in_cell x h)
  | cons y rest ih =>
    obtain ⟨k, v⟩ := y
    unfold Memory.write at h
    split at h
    · rcases List.mem_append.1 h with h | h
      · exact Or.inl (in_cell x h)
      · exact Or.inr h
    · split at h
      · rcases List.mem_append.1 h with h | h
        · exact Or.inl (in_cell x h)
        · exact Or.inr (by simp [h])
      · rcases List.mem_cons.1 h with h | h
        · exact Or.inr (by simp [h])
        · rcases ih h with h | h
          · exact Or.inl h
          · exact Or.inr (by simp [h])

theorem Memory.wf_cell_append (m : Memory) (a : Nat) (b : Byte) (h : Memory.wf m) (low : ∀ x ∈ m, a < x.1) :
    Memory.wf (Memory.cell a b ++ m) := by
  unfold Memory.cell
  split
  · simpa using h
  · next hb =>
    refine ⟨?_, ?_⟩
    · simpa using ⟨fun k v hy => low (k, v) hy, h.1⟩
    · intro y hy
      rcases List.mem_cons.1 hy with rfl | hy
      · exact hb
      · exact h.2 y hy

/-- A write keeps the canonical form. -/
theorem Memory.wf_write (m : Memory) (a : Nat) (b : Byte) (h : Memory.wf m) : Memory.wf (Memory.write m a b) := by
  induction m with
  | nil => simpa [Memory.write] using Memory.wf_cell_append [] a b h (by simp)
  | cons x rest ih =>
    obtain ⟨k, v⟩ := x
    have hp := List.pairwise_cons.1 h.1
    have hrest : Memory.wf rest := ⟨hp.2, fun y hy => h.2 y (by simp [hy])⟩
    unfold Memory.write
    split
    · next hlt =>
      apply Memory.wf_cell_append _ _ _ h
      intro y hy
      rcases List.mem_cons.1 hy with rfl | hy
      · exact hlt
      · exact Nat.lt_trans hlt (hp.1 y hy)
    · split
      · next heq =>
        subst heq
        exact Memory.wf_cell_append _ _ _ hrest fun y hy => hp.1 y hy
      · next hge hne =>
        refine ⟨List.pairwise_cons.2 ⟨?_, (ih hrest).1⟩, ?_⟩
        · intro y hy
          rcases Memory.mem_write rest a b y hy with ⟨rfl, -⟩ | hy
          · simp only; omega
          · exact hp.1 y hy
        · intro y hy
          rcases List.mem_cons.1 hy with rfl | hy
          · exact h.2 (k, v) (by simp)
          · exact (ih hrest).2 y hy

theorem Memory.wf_nil : Memory.wf [] := ⟨List.Pairwise.nil, by simp⟩

/-- A host store keeps the canonical form. -/
theorem Memory.wf_storeBytes (span : List Word) (value : Word) (m : Memory) (h : Memory.wf m) :
    Memory.wf (storeBytes value span m) := by
  induction span generalizing value m with
  | nil => exact h
  | cons a rest ih => exact ih _ _ (Memory.wf_write _ _ _ h)

/-- A host store adds no address outside its span. -/
theorem Memory.mem_storeBytes (span : List Word) (value : Word) (m : Memory) (x : Host.Cell)
    (h : x ∈ storeBytes value span m) : (∃ a ∈ span, x.1 = a.toNat) ∨ x ∈ m := by
  induction span generalizing value m with
  | nil => exact Or.inr h
  | cons a rest ih =>
    rcases ih _ _ h with ⟨c, hc, hx⟩ | h
    · exact Or.inl ⟨c, by simp [hc], hx⟩
    · rcases Memory.mem_write _ _ _ _ h with ⟨rfl, -⟩ | h
      · exact Or.inl ⟨a, by simp, rfl⟩
      · exact Or.inr h

/-- A host store leaves every byte outside its span as it was. -/
theorem Memory.read_storeBytes (span : List Word) (value : Word) (m : Memory) (c : Nat) (h : Memory.wf m)
    (out : ∀ a ∈ span, a.toNat ≠ c) : Memory.read (storeBytes value span m) c = Memory.read m c := by
  induction span generalizing value m with
  | nil => rfl
  | cons a rest ih =>
    have hne : c ≠ a.toNat := fun e => out a (by simp) e.symm
    rw [storeBytes, ih _ _ (Memory.wf_write _ _ _ h) fun x hx => out x (by simp [hx]), Memory.read_write _ _ _ _ h]
    simp [hne]

end Sys2Proof.Machine
end

