-- ==== Sys2Proof/Laws/State.lean ====
section
/-! SUPPORT. One lemma for each field of State under each update. -/

namespace Sys2Proof.Machine

variable (s : State)

@[simp] theorem setEng_params (x : Engine) : (s.setEng x).params = s.params := rfl
@[simp] theorem setEng_eng (x : Engine) : (s.setEng x).eng = x := rfl
@[simp] theorem setEng_cmd (x : Engine) : (s.setEng x).cmd = s.cmd := rfl
@[simp] theorem setEng_len (x : Engine) : (s.setEng x).len = s.len := rfl
@[simp] theorem setEng_buf (x : Engine) : (s.setEng x).buf = s.buf := rfl
@[simp] theorem setEng_ctl (x : Engine) : (s.setEng x).ctl = s.ctl := rfl
@[simp] theorem setEng_mem (x : Engine) : (s.setEng x).mem = s.mem := rfl
@[simp] theorem setEng_env (x : Engine) : (s.setEng x).env = s.env := rfl
@[simp] theorem setEng_inputs (x : Engine) : (s.setEng x).inputs = s.inputs := rfl
@[simp] theorem setEng_trace (x : Engine) : (s.setEng x).trace = s.trace := rfl
@[simp] theorem setEng_hostReads (x : Engine) : (s.setEng x).hostReads = s.hostReads := rfl

@[simp] theorem setCmd_params (x : Word) : (s.setCmd x).params = s.params := rfl
@[simp] theorem setCmd_eng (x : Word) : (s.setCmd x).eng = s.eng := rfl
@[simp] theorem setCmd_cmd (x : Word) : (s.setCmd x).cmd = x := rfl
@[simp] theorem setCmd_len (x : Word) : (s.setCmd x).len = s.len := rfl
@[simp] theorem setCmd_buf (x : Word) : (s.setCmd x).buf = s.buf := rfl
@[simp] theorem setCmd_ctl (x : Word) : (s.setCmd x).ctl = s.ctl := rfl
@[simp] theorem setCmd_mem (x : Word) : (s.setCmd x).mem = s.mem := rfl
@[simp] theorem setCmd_env (x : Word) : (s.setCmd x).env = s.env := rfl
@[simp] theorem setCmd_inputs (x : Word) : (s.setCmd x).inputs = s.inputs := rfl
@[simp] theorem setCmd_trace (x : Word) : (s.setCmd x).trace = s.trace := rfl
@[simp] theorem setCmd_hostReads (x : Word) : (s.setCmd x).hostReads = s.hostReads := rfl

@[simp] theorem setLen_params (x : Word) : (s.setLen x).params = s.params := rfl
@[simp] theorem setLen_eng (x : Word) : (s.setLen x).eng = s.eng := rfl
@[simp] theorem setLen_cmd (x : Word) : (s.setLen x).cmd = s.cmd := rfl
@[simp] theorem setLen_len (x : Word) : (s.setLen x).len = x := rfl
@[simp] theorem setLen_buf (x : Word) : (s.setLen x).buf = s.buf := rfl
@[simp] theorem setLen_ctl (x : Word) : (s.setLen x).ctl = s.ctl := rfl
@[simp] theorem setLen_mem (x : Word) : (s.setLen x).mem = s.mem := rfl
@[simp] theorem setLen_env (x : Word) : (s.setLen x).env = s.env := rfl
@[simp] theorem setLen_inputs (x : Word) : (s.setLen x).inputs = s.inputs := rfl
@[simp] theorem setLen_trace (x : Word) : (s.setLen x).trace = s.trace := rfl
@[simp] theorem setLen_hostReads (x : Word) : (s.setLen x).hostReads = s.hostReads := rfl

@[simp] theorem setBuf_params (x : Word) : (s.setBuf x).params = s.params := rfl
@[simp] theorem setBuf_eng (x : Word) : (s.setBuf x).eng = s.eng := rfl
@[simp] theorem setBuf_cmd (x : Word) : (s.setBuf x).cmd = s.cmd := rfl
@[simp] theorem setBuf_len (x : Word) : (s.setBuf x).len = s.len := rfl
@[simp] theorem setBuf_buf (x : Word) : (s.setBuf x).buf = x := rfl
@[simp] theorem setBuf_ctl (x : Word) : (s.setBuf x).ctl = s.ctl := rfl
@[simp] theorem setBuf_mem (x : Word) : (s.setBuf x).mem = s.mem := rfl
@[simp] theorem setBuf_env (x : Word) : (s.setBuf x).env = s.env := rfl
@[simp] theorem setBuf_inputs (x : Word) : (s.setBuf x).inputs = s.inputs := rfl
@[simp] theorem setBuf_trace (x : Word) : (s.setBuf x).trace = s.trace := rfl
@[simp] theorem setBuf_hostReads (x : Word) : (s.setBuf x).hostReads = s.hostReads := rfl

@[simp] theorem setCtl_params (x : Controller) : (s.setCtl x).params = s.params := rfl
@[simp] theorem setCtl_eng (x : Controller) : (s.setCtl x).eng = s.eng := rfl
@[simp] theorem setCtl_cmd (x : Controller) : (s.setCtl x).cmd = s.cmd := rfl
@[simp] theorem setCtl_len (x : Controller) : (s.setCtl x).len = s.len := rfl
@[simp] theorem setCtl_buf (x : Controller) : (s.setCtl x).buf = s.buf := rfl
@[simp] theorem setCtl_ctl (x : Controller) : (s.setCtl x).ctl = x := rfl
@[simp] theorem setCtl_mem (x : Controller) : (s.setCtl x).mem = s.mem := rfl
@[simp] theorem setCtl_env (x : Controller) : (s.setCtl x).env = s.env := rfl
@[simp] theorem setCtl_inputs (x : Controller) : (s.setCtl x).inputs = s.inputs := rfl
@[simp] theorem setCtl_trace (x : Controller) : (s.setCtl x).trace = s.trace := rfl
@[simp] theorem setCtl_hostReads (x : Controller) : (s.setCtl x).hostReads = s.hostReads := rfl

@[simp] theorem setMem_params (x : Memory) : (s.setMem x).params = s.params := rfl
@[simp] theorem setMem_eng (x : Memory) : (s.setMem x).eng = s.eng := rfl
@[simp] theorem setMem_cmd (x : Memory) : (s.setMem x).cmd = s.cmd := rfl
@[simp] theorem setMem_len (x : Memory) : (s.setMem x).len = s.len := rfl
@[simp] theorem setMem_buf (x : Memory) : (s.setMem x).buf = s.buf := rfl
@[simp] theorem setMem_ctl (x : Memory) : (s.setMem x).ctl = s.ctl := rfl
@[simp] theorem setMem_mem (x : Memory) : (s.setMem x).mem = x := rfl
@[simp] theorem setMem_env (x : Memory) : (s.setMem x).env = s.env := rfl
@[simp] theorem setMem_inputs (x : Memory) : (s.setMem x).inputs = s.inputs := rfl
@[simp] theorem setMem_trace (x : Memory) : (s.setMem x).trace = s.trace := rfl
@[simp] theorem setMem_hostReads (x : Memory) : (s.setMem x).hostReads = s.hostReads := rfl

@[simp] theorem setEnv_params (x : Env) : (s.setEnv x).params = s.params := rfl
@[simp] theorem setEnv_eng (x : Env) : (s.setEnv x).eng = s.eng := rfl
@[simp] theorem setEnv_cmd (x : Env) : (s.setEnv x).cmd = s.cmd := rfl
@[simp] theorem setEnv_len (x : Env) : (s.setEnv x).len = s.len := rfl
@[simp] theorem setEnv_buf (x : Env) : (s.setEnv x).buf = s.buf := rfl
@[simp] theorem setEnv_ctl (x : Env) : (s.setEnv x).ctl = s.ctl := rfl
@[simp] theorem setEnv_mem (x : Env) : (s.setEnv x).mem = s.mem := rfl
@[simp] theorem setEnv_env (x : Env) : (s.setEnv x).env = x := rfl
@[simp] theorem setEnv_inputs (x : Env) : (s.setEnv x).inputs = s.inputs := rfl
@[simp] theorem setEnv_trace (x : Env) : (s.setEnv x).trace = s.trace := rfl
@[simp] theorem setEnv_hostReads (x : Env) : (s.setEnv x).hostReads = s.hostReads := rfl

@[simp] theorem setInputs_params (x : List Input) : (s.setInputs x).params = s.params := rfl
@[simp] theorem setInputs_eng (x : List Input) : (s.setInputs x).eng = s.eng := rfl
@[simp] theorem setInputs_cmd (x : List Input) : (s.setInputs x).cmd = s.cmd := rfl
@[simp] theorem setInputs_len (x : List Input) : (s.setInputs x).len = s.len := rfl
@[simp] theorem setInputs_buf (x : List Input) : (s.setInputs x).buf = s.buf := rfl
@[simp] theorem setInputs_ctl (x : List Input) : (s.setInputs x).ctl = s.ctl := rfl
@[simp] theorem setInputs_mem (x : List Input) : (s.setInputs x).mem = s.mem := rfl
@[simp] theorem setInputs_env (x : List Input) : (s.setInputs x).env = s.env := rfl
@[simp] theorem setInputs_inputs (x : List Input) : (s.setInputs x).inputs = x := rfl
@[simp] theorem setInputs_trace (x : List Input) : (s.setInputs x).trace = s.trace := rfl
@[simp] theorem setInputs_hostReads (x : List Input) : (s.setInputs x).hostReads = s.hostReads := rfl

@[simp] theorem emit_params (x : Event) : (s.emit x).params = s.params := rfl
@[simp] theorem emit_eng (x : Event) : (s.emit x).eng = s.eng := rfl
@[simp] theorem emit_cmd (x : Event) : (s.emit x).cmd = s.cmd := rfl
@[simp] theorem emit_len (x : Event) : (s.emit x).len = s.len := rfl
@[simp] theorem emit_buf (x : Event) : (s.emit x).buf = s.buf := rfl
@[simp] theorem emit_ctl (x : Event) : (s.emit x).ctl = s.ctl := rfl
@[simp] theorem emit_mem (x : Event) : (s.emit x).mem = s.mem := rfl
@[simp] theorem emit_env (x : Event) : (s.emit x).env = s.env := rfl
@[simp] theorem emit_inputs (x : Event) : (s.emit x).inputs = s.inputs := rfl
@[simp] theorem emit_trace (x : Event) : (s.emit x).trace = s.trace ++ [x] := rfl
@[simp] theorem emit_hostReads (x : Event) : (s.emit x).hostReads = s.hostReads := rfl

@[simp] theorem answerHost_params (x : Word) : (s.answerHost x).params = s.params := rfl
@[simp] theorem answerHost_eng (x : Word) : (s.answerHost x).eng = s.eng := rfl
@[simp] theorem answerHost_cmd (x : Word) : (s.answerHost x).cmd = s.cmd := rfl
@[simp] theorem answerHost_len (x : Word) : (s.answerHost x).len = s.len := rfl
@[simp] theorem answerHost_buf (x : Word) : (s.answerHost x).buf = s.buf := rfl
@[simp] theorem answerHost_ctl (x : Word) : (s.answerHost x).ctl = s.ctl := rfl
@[simp] theorem answerHost_mem (x : Word) : (s.answerHost x).mem = s.mem := rfl
@[simp] theorem answerHost_env (x : Word) : (s.answerHost x).env = s.env := rfl
@[simp] theorem answerHost_inputs (x : Word) : (s.answerHost x).inputs = s.inputs := rfl
@[simp] theorem answerHost_trace (x : Word) : (s.answerHost x).trace = s.trace := rfl
@[simp] theorem answerHost_hostReads (x : Word) : (s.answerHost x).hostReads = s.hostReads ++ [x] := rfl

end Sys2Proof.Machine
end

