-- ==== Sys2Proof/Laws/Ops.lean ====
section
/-! SUPPORT. What each shared operation does to each field: the lemmas a proof cites instead of unfolding it. -/

namespace Sys2Proof.Machine

variable (s : State)

@[simp] theorem readIsr_params : (readIsr s).params = s.params := by simp [readIsr]
@[simp] theorem readIsr_eng : (readIsr s).eng = s.eng := by simp [readIsr]
@[simp] theorem readIsr_cmd : (readIsr s).cmd = s.cmd := by simp [readIsr]
@[simp] theorem readIsr_len : (readIsr s).len = s.len := by simp [readIsr]
@[simp] theorem readIsr_buf : (readIsr s).buf = s.buf := by simp [readIsr]
@[simp] theorem readIsr_ctl : (readIsr s).ctl = { s.ctl with isr := nextStatus s.env } := by simp [readIsr]
@[simp] theorem readIsr_mem : (readIsr s).mem = s.mem := by simp [readIsr]
@[simp] theorem readIsr_env : (readIsr s).env = afterStatus s.env := by simp [readIsr]
@[simp] theorem readIsr_inputs : (readIsr s).inputs = s.inputs := by simp [readIsr]
@[simp] theorem readIsr_trace : (readIsr s).trace = s.trace := by simp [readIsr]
@[simp] theorem readIsr_hostReads : (readIsr s).hostReads = s.hostReads := by simp [readIsr]

@[simp] theorem readCr2_params : (readCr2 s).params = s.params := by simp [readCr2]
@[simp] theorem readCr2_eng : (readCr2 s).eng = s.eng := by simp [readCr2]
@[simp] theorem readCr2_cmd : (readCr2 s).cmd = s.cmd := by simp [readCr2]
@[simp] theorem readCr2_len : (readCr2 s).len = s.len := by simp [readCr2]
@[simp] theorem readCr2_buf : (readCr2 s).buf = s.buf := by simp [readCr2]
@[simp] theorem readCr2_ctl : (readCr2 s).ctl = { s.ctl with cr2 := nextCtrl s.env } := by simp [readCr2]
@[simp] theorem readCr2_mem : (readCr2 s).mem = s.mem := by simp [readCr2]
@[simp] theorem readCr2_env : (readCr2 s).env = afterCtrl s.env := by simp [readCr2]
@[simp] theorem readCr2_inputs : (readCr2 s).inputs = s.inputs := by simp [readCr2]
@[simp] theorem readCr2_trace : (readCr2 s).trace = s.trace := by simp [readCr2]
@[simp] theorem readCr2_hostReads : (readCr2 s).hostReads = s.hostReads := by simp [readCr2]

@[simp] theorem readRxdr_params : (readRxdr s).params = s.params := by simp [readRxdr]
@[simp] theorem readRxdr_eng : (readRxdr s).eng = s.eng := by simp [readRxdr]
@[simp] theorem readRxdr_cmd : (readRxdr s).cmd = s.cmd := by simp [readRxdr]
@[simp] theorem readRxdr_len : (readRxdr s).len = s.len := by simp [readRxdr]
@[simp] theorem readRxdr_buf : (readRxdr s).buf = s.buf := by simp [readRxdr]
@[simp] theorem readRxdr_ctl : (readRxdr s).ctl = { s.ctl with rxdr := nextRx s.env } := by simp [readRxdr]
@[simp] theorem readRxdr_mem : (readRxdr s).mem = s.mem := by simp [readRxdr]
@[simp] theorem readRxdr_env : (readRxdr s).env = afterRx s.env := by simp [readRxdr]
@[simp] theorem readRxdr_inputs : (readRxdr s).inputs = s.inputs := by simp [readRxdr]
@[simp] theorem readRxdr_trace : (readRxdr s).trace = s.trace := by simp [readRxdr]
@[simp] theorem readRxdr_hostReads : (readRxdr s).hostReads = s.hostReads := by simp [readRxdr]

@[simp] theorem writeCr2_params (value : Word) : (writeCr2 value s).params = s.params := by simp [writeCr2]
@[simp] theorem writeCr2_eng (value : Word) : (writeCr2 value s).eng = s.eng := by simp [writeCr2]
@[simp] theorem writeCr2_cmd (value : Word) : (writeCr2 value s).cmd = s.cmd := by simp [writeCr2]
@[simp] theorem writeCr2_len (value : Word) : (writeCr2 value s).len = s.len := by simp [writeCr2]
@[simp] theorem writeCr2_buf (value : Word) : (writeCr2 value s).buf = s.buf := by simp [writeCr2]
@[simp] theorem writeCr2_ctl (value : Word) : (writeCr2 value s).ctl = { s.ctl with cr2 := value } := by simp [writeCr2]
@[simp] theorem writeCr2_mem (value : Word) : (writeCr2 value s).mem = s.mem := by simp [writeCr2]
@[simp] theorem writeCr2_env (value : Word) : (writeCr2 value s).env = s.env := by simp [writeCr2]
@[simp] theorem writeCr2_inputs (value : Word) : (writeCr2 value s).inputs = s.inputs := by simp [writeCr2]
@[simp] theorem writeCr2_trace (value : Word) : (writeCr2 value s).trace = s.trace := by simp [writeCr2]
@[simp] theorem writeCr2_hostReads (value : Word) : (writeCr2 value s).hostReads = s.hostReads := by simp [writeCr2]

@[simp] theorem writeIcr_params (value : Word) : (writeIcr value s).params = s.params := by simp [writeIcr]
@[simp] theorem writeIcr_eng (value : Word) : (writeIcr value s).eng = s.eng := by simp [writeIcr]
@[simp] theorem writeIcr_cmd (value : Word) : (writeIcr value s).cmd = s.cmd := by simp [writeIcr]
@[simp] theorem writeIcr_len (value : Word) : (writeIcr value s).len = s.len := by simp [writeIcr]
@[simp] theorem writeIcr_buf (value : Word) : (writeIcr value s).buf = s.buf := by simp [writeIcr]
@[simp] theorem writeIcr_ctl (value : Word) : (writeIcr value s).ctl =
    { s.ctl with isr := s.ctl.isr &&& ~~~clearedBits s.params.regif value } := by simp [writeIcr, icrWritten]
@[simp] theorem writeIcr_mem (value : Word) : (writeIcr value s).mem = s.mem := by simp [writeIcr]
@[simp] theorem writeIcr_env (value : Word) : (writeIcr value s).env = s.env := by simp [writeIcr]
@[simp] theorem writeIcr_inputs (value : Word) : (writeIcr value s).inputs = s.inputs := by simp [writeIcr]
@[simp] theorem writeIcr_trace (value : Word) : (writeIcr value s).trace = s.trace := by simp [writeIcr]
@[simp] theorem writeIcr_hostReads (value : Word) : (writeIcr value s).hostReads = s.hostReads := by simp [writeIcr]

@[simp] theorem pollStatus_params : (pollStatus s).params = s.params := by simp [pollStatus]
@[simp] theorem pollStatus_eng : (pollStatus s).eng = s.eng := by simp [pollStatus]
@[simp] theorem pollStatus_cmd : (pollStatus s).cmd = s.cmd := by simp [pollStatus]
@[simp] theorem pollStatus_len : (pollStatus s).len = s.len := by simp [pollStatus]
@[simp] theorem pollStatus_buf : (pollStatus s).buf = s.buf := by simp [pollStatus]
@[simp] theorem pollStatus_ctl : (pollStatus s).ctl = { s.ctl with isr := nextStatus s.env } := by simp [pollStatus]
@[simp] theorem pollStatus_mem : (pollStatus s).mem = s.mem := by simp [pollStatus]
@[simp] theorem pollStatus_env : (pollStatus s).env = afterStatus s.env := by simp [pollStatus]
@[simp] theorem pollStatus_inputs : (pollStatus s).inputs = s.inputs := by simp [pollStatus]
@[simp] theorem pollStatus_trace : (pollStatus s).trace = s.trace ++ [.poll (polled s)] := by simp [pollStatus, polled]
@[simp] theorem pollStatus_hostReads : (pollStatus s).hostReads = s.hostReads := by simp [pollStatus]

@[simp] theorem ctrlRead_params : (ctrlRead s).params = s.params := by simp [ctrlRead]
@[simp] theorem ctrlRead_eng : (ctrlRead s).eng = s.eng := by simp [ctrlRead]
@[simp] theorem ctrlRead_cmd : (ctrlRead s).cmd = s.cmd := by simp [ctrlRead]
@[simp] theorem ctrlRead_len : (ctrlRead s).len = s.len := by simp [ctrlRead]
@[simp] theorem ctrlRead_buf : (ctrlRead s).buf = s.buf := by simp [ctrlRead]
@[simp] theorem ctrlRead_ctl : (ctrlRead s).ctl = { s.ctl with cr2 := nextCtrl s.env } := by simp [ctrlRead]
@[simp] theorem ctrlRead_mem : (ctrlRead s).mem = s.mem := by simp [ctrlRead]
@[simp] theorem ctrlRead_env : (ctrlRead s).env = afterCtrl s.env := by simp [ctrlRead]
@[simp] theorem ctrlRead_inputs : (ctrlRead s).inputs = s.inputs := by simp [ctrlRead]
@[simp] theorem ctrlRead_trace : (ctrlRead s).trace = s.trace ++ [.ctrlRead (nextCtrl s.env)] := by simp [ctrlRead]
@[simp] theorem ctrlRead_hostReads : (ctrlRead s).hostReads = s.hostReads := by simp [ctrlRead]

@[simp] theorem writeDescriptor_params (d : Descriptor) (value : Word) : (writeDescriptor d value s).params = s.params := by simp [writeDescriptor]
@[simp] theorem writeDescriptor_eng (d : Descriptor) (value : Word) : (writeDescriptor d value s).eng = s.eng := by simp [writeDescriptor]
@[simp] theorem writeDescriptor_cmd (d : Descriptor) (value : Word) : (writeDescriptor d value s).cmd = s.cmd := by simp [writeDescriptor]
@[simp] theorem writeDescriptor_len (d : Descriptor) (value : Word) : (writeDescriptor d value s).len = s.len := by simp [writeDescriptor]
@[simp] theorem writeDescriptor_buf (d : Descriptor) (value : Word) : (writeDescriptor d value s).buf = s.buf := by simp [writeDescriptor]
@[simp] theorem writeDescriptor_ctl (d : Descriptor) (value : Word) : (writeDescriptor d value s).ctl = { s.ctl with cr2 := value } := by simp [writeDescriptor]
@[simp] theorem writeDescriptor_mem (d : Descriptor) (value : Word) : (writeDescriptor d value s).mem = s.mem := by simp [writeDescriptor]
@[simp] theorem writeDescriptor_env (d : Descriptor) (value : Word) : (writeDescriptor d value s).env = s.env := by simp [writeDescriptor]
@[simp] theorem writeDescriptor_inputs (d : Descriptor) (value : Word) : (writeDescriptor d value s).inputs = s.inputs := by simp [writeDescriptor]
@[simp] theorem writeDescriptor_trace (d : Descriptor) (value : Word) : (writeDescriptor d value s).trace = s.trace ++ [.writeCtrl d] := by simp [writeDescriptor]
@[simp] theorem writeDescriptor_hostReads (d : Descriptor) (value : Word) : (writeDescriptor d value s).hostReads = s.hostReads := by simp [writeDescriptor]

@[simp] theorem writeCtrl_params (value : Word) : (writeCtrl value s).params = s.params := by simp [writeCtrl]
@[simp] theorem writeCtrl_eng (value : Word) : (writeCtrl value s).eng = s.eng := by simp [writeCtrl]
@[simp] theorem writeCtrl_cmd (value : Word) : (writeCtrl value s).cmd = s.cmd := by simp [writeCtrl]
@[simp] theorem writeCtrl_len (value : Word) : (writeCtrl value s).len = s.len := by simp [writeCtrl]
@[simp] theorem writeCtrl_buf (value : Word) : (writeCtrl value s).buf = s.buf := by simp [writeCtrl]
@[simp] theorem writeCtrl_ctl (value : Word) : (writeCtrl value s).ctl = { s.ctl with cr2 := value } := by simp [writeCtrl]
@[simp] theorem writeCtrl_mem (value : Word) : (writeCtrl value s).mem = s.mem := by simp [writeCtrl]
@[simp] theorem writeCtrl_env (value : Word) : (writeCtrl value s).env = s.env := by simp [writeCtrl]
@[simp] theorem writeCtrl_inputs (value : Word) : (writeCtrl value s).inputs = s.inputs := by simp [writeCtrl]
@[simp] theorem writeCtrl_trace (value : Word) : (writeCtrl value s).trace = s.trace ++ [.writeCtrl (descriptorOf s.params.regif value)] := by simp [writeCtrl]
@[simp] theorem writeCtrl_hostReads (value : Word) : (writeCtrl value s).hostReads = s.hostReads := by simp [writeCtrl]

@[simp] theorem writeStart_params (value : Word) : (writeStart value s).params = s.params := by simp [writeStart]
@[simp] theorem writeStart_eng (value : Word) : (writeStart value s).eng = s.eng := by simp [writeStart]
@[simp] theorem writeStart_cmd (value : Word) : (writeStart value s).cmd = s.cmd := by simp [writeStart]
@[simp] theorem writeStart_len (value : Word) : (writeStart value s).len = s.len := by simp [writeStart]
@[simp] theorem writeStart_buf (value : Word) : (writeStart value s).buf = s.buf := by simp [writeStart]
@[simp] theorem writeStart_ctl (value : Word) : (writeStart value s).ctl = { s.ctl with cr2 := value } := by simp [writeStart]
@[simp] theorem writeStart_mem (value : Word) : (writeStart value s).mem = s.mem := by simp [writeStart]
@[simp] theorem writeStart_env (value : Word) : (writeStart value s).env = s.env := by simp [writeStart]
@[simp] theorem writeStart_inputs (value : Word) : (writeStart value s).inputs = s.inputs := by simp [writeStart]
@[simp] theorem writeStart_trace (value : Word) : (writeStart value s).trace = s.trace ++ [.start] := by simp [writeStart]
@[simp] theorem writeStart_hostReads (value : Word) : (writeStart value s).hostReads = s.hostReads := by simp [writeStart]

@[simp] theorem writeStop_params (value : Word) : (writeStop value s).params = s.params := by simp [writeStop]
@[simp] theorem writeStop_eng (value : Word) : (writeStop value s).eng = s.eng := by simp [writeStop]
@[simp] theorem writeStop_cmd (value : Word) : (writeStop value s).cmd = s.cmd := by simp [writeStop]
@[simp] theorem writeStop_len (value : Word) : (writeStop value s).len = s.len := by simp [writeStop]
@[simp] theorem writeStop_buf (value : Word) : (writeStop value s).buf = s.buf := by simp [writeStop]
@[simp] theorem writeStop_ctl (value : Word) : (writeStop value s).ctl = { s.ctl with cr2 := value } := by simp [writeStop]
@[simp] theorem writeStop_mem (value : Word) : (writeStop value s).mem = s.mem := by simp [writeStop]
@[simp] theorem writeStop_env (value : Word) : (writeStop value s).env = s.env := by simp [writeStop]
@[simp] theorem writeStop_inputs (value : Word) : (writeStop value s).inputs = s.inputs := by simp [writeStop]
@[simp] theorem writeStop_trace (value : Word) : (writeStop value s).trace = s.trace ++ [.stop] := by simp [writeStop]
@[simp] theorem writeStop_hostReads (value : Word) : (writeStop value s).hostReads = s.hostReads := by simp [writeStop]

@[simp] theorem triggerStart_params : (triggerStart s).params = s.params := by simp [triggerStart]
@[simp] theorem triggerStart_eng : (triggerStart s).eng = s.eng := by simp [triggerStart]
@[simp] theorem triggerStart_cmd : (triggerStart s).cmd = s.cmd := by simp [triggerStart]
@[simp] theorem triggerStart_len : (triggerStart s).len = s.len := by simp [triggerStart]
@[simp] theorem triggerStart_buf : (triggerStart s).buf = s.buf := by simp [triggerStart]
@[simp] theorem triggerStart_ctl : (triggerStart s).ctl = { s.ctl with cr2 := nextCtrl s.env ||| startBit s.params.regif } := by simp [triggerStart]
@[simp] theorem triggerStart_mem : (triggerStart s).mem = s.mem := by simp [triggerStart]
@[simp] theorem triggerStart_env : (triggerStart s).env = afterCtrl s.env := by simp [triggerStart]
@[simp] theorem triggerStart_inputs : (triggerStart s).inputs = s.inputs := by simp [triggerStart]
@[simp] theorem triggerStart_trace : (triggerStart s).trace = s.trace ++ [.ctrlRead (nextCtrl s.env), .start] := by simp [triggerStart]
@[simp] theorem triggerStart_hostReads : (triggerStart s).hostReads = s.hostReads := by simp [triggerStart]

@[simp] theorem triggerStop_params : (triggerStop s).params = s.params := by simp [triggerStop]
@[simp] theorem triggerStop_eng : (triggerStop s).eng = s.eng := by simp [triggerStop]
@[simp] theorem triggerStop_cmd : (triggerStop s).cmd = s.cmd := by simp [triggerStop]
@[simp] theorem triggerStop_len : (triggerStop s).len = s.len := by simp [triggerStop]
@[simp] theorem triggerStop_buf : (triggerStop s).buf = s.buf := by simp [triggerStop]
@[simp] theorem triggerStop_ctl : (triggerStop s).ctl = { s.ctl with cr2 := nextCtrl s.env ||| stopBit s.params.regif } := by simp [triggerStop]
@[simp] theorem triggerStop_mem : (triggerStop s).mem = s.mem := by simp [triggerStop]
@[simp] theorem triggerStop_env : (triggerStop s).env = afterCtrl s.env := by simp [triggerStop]
@[simp] theorem triggerStop_inputs : (triggerStop s).inputs = s.inputs := by simp [triggerStop]
@[simp] theorem triggerStop_trace : (triggerStop s).trace = s.trace ++ [.ctrlRead (nextCtrl s.env), .stop] := by simp [triggerStop]
@[simp] theorem triggerStop_hostReads : (triggerStop s).hostReads = s.hostReads := by simp [triggerStop]

@[simp] theorem txWrite_params (b : Byte) : (txWrite b s).params = s.params := by simp [txWrite]
@[simp] theorem txWrite_eng (b : Byte) : (txWrite b s).eng = s.eng := by simp [txWrite]
@[simp] theorem txWrite_cmd (b : Byte) : (txWrite b s).cmd = s.cmd := by simp [txWrite]
@[simp] theorem txWrite_len (b : Byte) : (txWrite b s).len = s.len := by simp [txWrite]
@[simp] theorem txWrite_buf (b : Byte) : (txWrite b s).buf = s.buf := by simp [txWrite]
@[simp] theorem txWrite_ctl (b : Byte) : (txWrite b s).ctl = { s.ctl with txdr := txWord s.params.regif b } := by simp [txWrite]
@[simp] theorem txWrite_mem (b : Byte) : (txWrite b s).mem = s.mem := by simp [txWrite]
@[simp] theorem txWrite_env (b : Byte) : (txWrite b s).env = s.env := by simp [txWrite]
@[simp] theorem txWrite_inputs (b : Byte) : (txWrite b s).inputs = s.inputs := by simp [txWrite]
@[simp] theorem txWrite_trace (b : Byte) : (txWrite b s).trace = s.trace ++ [.tx b] := by simp [txWrite]
@[simp] theorem txWrite_hostReads (b : Byte) : (txWrite b s).hostReads = s.hostReads := by simp [txWrite]

@[simp] theorem rxRead_params : (rxRead s).params = s.params := by simp [rxRead]
@[simp] theorem rxRead_eng : (rxRead s).eng = s.eng := by simp [rxRead]
@[simp] theorem rxRead_cmd : (rxRead s).cmd = s.cmd := by simp [rxRead]
@[simp] theorem rxRead_len : (rxRead s).len = s.len := by simp [rxRead]
@[simp] theorem rxRead_buf : (rxRead s).buf = s.buf := by simp [rxRead]
@[simp] theorem rxRead_ctl : (rxRead s).ctl = { s.ctl with rxdr := nextRx s.env } := by simp [rxRead]
@[simp] theorem rxRead_mem : (rxRead s).mem = s.mem := by simp [rxRead]
@[simp] theorem rxRead_env : (rxRead s).env = afterRx s.env := by simp [rxRead]
@[simp] theorem rxRead_inputs : (rxRead s).inputs = s.inputs := by simp [rxRead]
@[simp] theorem rxRead_trace : (rxRead s).trace = s.trace ++ [.rx (received s)] := by simp [rxRead]
@[simp] theorem rxRead_hostReads : (rxRead s).hostReads = s.hostReads := by simp [rxRead]

@[simp] theorem clearNack_params : (clearNack s).params = s.params := by simp [clearNack]
@[simp] theorem clearNack_eng : (clearNack s).eng = s.eng := by simp [clearNack]
@[simp] theorem clearNack_cmd : (clearNack s).cmd = s.cmd := by simp [clearNack]
@[simp] theorem clearNack_len : (clearNack s).len = s.len := by simp [clearNack]
@[simp] theorem clearNack_buf : (clearNack s).buf = s.buf := by simp [clearNack]
@[simp] theorem clearNack_ctl : (clearNack s).ctl =
    { s.ctl with isr := s.ctl.isr &&& ~~~clearedBits s.params.regif (icrNack s.params.regif) } := by simp [clearNack]
@[simp] theorem clearNack_mem : (clearNack s).mem = s.mem := by simp [clearNack]
@[simp] theorem clearNack_env : (clearNack s).env = s.env := by simp [clearNack]
@[simp] theorem clearNack_inputs : (clearNack s).inputs = s.inputs := by simp [clearNack]
@[simp] theorem clearNack_trace : (clearNack s).trace = s.trace ++ [.clearNack] := by simp [clearNack]
@[simp] theorem clearNack_hostReads : (clearNack s).hostReads = s.hostReads := by simp [clearNack]

@[simp] theorem clearStop_params : (clearStop s).params = s.params := by simp [clearStop]
@[simp] theorem clearStop_eng : (clearStop s).eng = s.eng := by simp [clearStop]
@[simp] theorem clearStop_cmd : (clearStop s).cmd = s.cmd := by simp [clearStop]
@[simp] theorem clearStop_len : (clearStop s).len = s.len := by simp [clearStop]
@[simp] theorem clearStop_buf : (clearStop s).buf = s.buf := by simp [clearStop]
@[simp] theorem clearStop_ctl : (clearStop s).ctl =
    { s.ctl with isr := s.ctl.isr &&& ~~~clearedBits s.params.regif (icrStop s.params.regif) } := by simp [clearStop]
@[simp] theorem clearStop_mem : (clearStop s).mem = s.mem := by simp [clearStop]
@[simp] theorem clearStop_env : (clearStop s).env = s.env := by simp [clearStop]
@[simp] theorem clearStop_inputs : (clearStop s).inputs = s.inputs := by simp [clearStop]
@[simp] theorem clearStop_trace : (clearStop s).trace = s.trace ++ [.clearStop] := by simp [clearStop]
@[simp] theorem clearStop_hostReads : (clearStop s).hostReads = s.hostReads := by simp [clearStop]

@[simp] theorem issue_params (d : Descriptor) : (issue d s).params = s.params := by simp [issue]
@[simp] theorem issue_eng (d : Descriptor) : (issue d s).eng =
    { s.eng with cur := { dir := d.dir, count := d.count, em := d.em }, idx := 0, st := .awaitAddrAck } := by simp [issue]
@[simp] theorem issue_cmd (d : Descriptor) : (issue d s).cmd = s.cmd := by simp [issue]
@[simp] theorem issue_len (d : Descriptor) : (issue d s).len = s.len := by simp [issue]
@[simp] theorem issue_buf (d : Descriptor) : (issue d s).buf = s.buf := by simp [issue]
@[simp] theorem issue_ctl (d : Descriptor) : (issue d s).ctl =
    { s.ctl with cr2 := nextCtrl s.env ||| startBit s.params.regif } := by simp [issue]
@[simp] theorem issue_mem (d : Descriptor) : (issue d s).mem = s.mem := by simp [issue]
@[simp] theorem issue_env (d : Descriptor) : (issue d s).env = afterCtrl s.env := by simp [issue]
@[simp] theorem issue_inputs (d : Descriptor) : (issue d s).inputs = s.inputs := by simp [issue]
@[simp] theorem issue_trace (d : Descriptor) : (issue d s).trace =
    s.trace ++ [.writeCtrl d, .ctrlRead (nextCtrl s.env), .start] := by simp [issue]
@[simp] theorem issue_hostReads (d : Descriptor) : (issue d s).hostReads = s.hostReads := by simp [issue]

@[simp] theorem afterByte_params : (afterByte s).params = s.params := by simp [afterByte]
@[simp] theorem afterByte_eng : (afterByte s).eng = engineAfterByte s.eng := by simp [afterByte]
@[simp] theorem afterByte_cmd : (afterByte s).cmd = s.cmd := by simp [afterByte]
@[simp] theorem afterByte_len : (afterByte s).len = s.len := by simp [afterByte]
@[simp] theorem afterByte_buf : (afterByte s).buf = s.buf := by simp [afterByte]
@[simp] theorem afterByte_ctl : (afterByte s).ctl = s.ctl := by simp [afterByte]
@[simp] theorem afterByte_mem : (afterByte s).mem = s.mem := by simp [afterByte]
@[simp] theorem afterByte_env : (afterByte s).env = s.env := by simp [afterByte]
@[simp] theorem afterByte_inputs : (afterByte s).inputs = s.inputs := by simp [afterByte]
@[simp] theorem afterByte_trace : (afterByte s).trace = s.trace := by simp [afterByte]
@[simp] theorem afterByte_hostReads : (afterByte s).hostReads = s.hostReads := by simp [afterByte]

@[simp] theorem abortEntry_params : (abortEntry s).params = s.params := by simp [abortEntry]
@[simp] theorem abortEntry_eng : (abortEntry s).eng = { s.eng with stopCause := .abort, st := .awaitStop } := by simp [abortEntry]
@[simp] theorem abortEntry_cmd : (abortEntry s).cmd = s.cmd := by simp [abortEntry]
@[simp] theorem abortEntry_len : (abortEntry s).len = s.len := by simp [abortEntry]
@[simp] theorem abortEntry_buf : (abortEntry s).buf = s.buf := by simp [abortEntry]
@[simp] theorem abortEntry_ctl : (abortEntry s).ctl =
    { s.ctl with isr := s.ctl.isr &&& ~~~clearedBits s.params.regif (icrNack s.params.regif), cr2 := nextCtrl s.env ||| stopBit s.params.regif } := by simp [abortEntry]
@[simp] theorem abortEntry_mem : (abortEntry s).mem = s.mem := by simp [abortEntry]
@[simp] theorem abortEntry_env : (abortEntry s).env = afterCtrl s.env := by simp [abortEntry]
@[simp] theorem abortEntry_inputs : (abortEntry s).inputs = s.inputs := by simp [abortEntry]
@[simp] theorem abortEntry_trace : (abortEntry s).trace =
    s.trace ++ [.clearNack, .ctrlRead (nextCtrl s.env), .stop] := by simp [abortEntry]
@[simp] theorem abortEntry_hostReads : (abortEntry s).hostReads = s.hostReads := by simp [abortEntry]

@[simp] theorem abortReturn_params : (abortReturn s).params = s.params := by simp [abortReturn]
@[simp] theorem abortReturn_eng : (abortReturn s).eng = { s.eng with st := .aborted } := by simp [abortReturn]
@[simp] theorem abortReturn_cmd : (abortReturn s).cmd = s.cmd := by simp [abortReturn]
@[simp] theorem abortReturn_len : (abortReturn s).len = s.len := by simp [abortReturn]
@[simp] theorem abortReturn_buf : (abortReturn s).buf = s.buf := by simp [abortReturn]
@[simp] theorem abortReturn_ctl : (abortReturn s).ctl = { s.ctl with isr := s.ctl.isr &&& ~~~clearedBits s.params.regif (icrStop s.params.regif) } := by simp [abortReturn]
@[simp] theorem abortReturn_mem : (abortReturn s).mem = s.mem := by simp [abortReturn]
@[simp] theorem abortReturn_env : (abortReturn s).env = s.env := by simp [abortReturn]
@[simp] theorem abortReturn_inputs : (abortReturn s).inputs = s.inputs := by simp [abortReturn]
@[simp] theorem abortReturn_trace : (abortReturn s).trace = s.trace ++ [.clearStop] := by simp [abortReturn]
@[simp] theorem abortReturn_hostReads : (abortReturn s).hostReads = s.hostReads := by simp [abortReturn]

@[simp] theorem reject_params : (reject s).params = s.params := by simp [reject]
@[simp] theorem reject_eng : (reject s).eng = { s.eng with st := .aborted } := by simp [reject]
@[simp] theorem reject_cmd : (reject s).cmd = s.cmd := by simp [reject]
@[simp] theorem reject_len : (reject s).len = s.len := by simp [reject]
@[simp] theorem reject_buf : (reject s).buf = s.buf := by simp [reject]
@[simp] theorem reject_ctl : (reject s).ctl = { s.ctl with cr2 := nextCtrl s.env ||| stopBit s.params.regif } := by simp [reject]
@[simp] theorem reject_mem : (reject s).mem = s.mem := by simp [reject]
@[simp] theorem reject_env : (reject s).env = afterCtrl s.env := by simp [reject]
@[simp] theorem reject_inputs : (reject s).inputs = s.inputs := by simp [reject]
@[simp] theorem reject_trace : (reject s).trace =
    s.trace ++ [.ctrlRead (nextCtrl s.env), .stop] := by simp [reject]
@[simp] theorem reject_hostReads : (reject s).hostReads = s.hostReads := by simp [reject]

@[simp] theorem startGuard_params : (startGuard s).params = s.params := by simp [startGuard]
@[simp] theorem startGuard_eng : (startGuard s).eng = { s.eng with st := .awaitBusFree } := by simp [startGuard]
@[simp] theorem startGuard_cmd : (startGuard s).cmd = s.cmd := by simp [startGuard]
@[simp] theorem startGuard_len : (startGuard s).len = s.len := by simp [startGuard]
@[simp] theorem startGuard_buf : (startGuard s).buf = s.buf := by simp [startGuard]
@[simp] theorem startGuard_ctl : (startGuard s).ctl = s.ctl := by simp [startGuard]
@[simp] theorem startGuard_mem : (startGuard s).mem = s.mem := by simp [startGuard]
@[simp] theorem startGuard_env : (startGuard s).env = s.env := by simp [startGuard]
@[simp] theorem startGuard_inputs : (startGuard s).inputs = s.inputs := by simp [startGuard]
@[simp] theorem startGuard_trace : (startGuard s).trace = s.trace := by simp [startGuard]
@[simp] theorem startGuard_hostReads : (startGuard s).hostReads = s.hostReads := by simp [startGuard]

@[simp] theorem finishAtOnce_params : (finishAtOnce s).params = s.params := by simp [finishAtOnce]
@[simp] theorem finishAtOnce_eng : (finishAtOnce s).eng = { s.eng with st := .done } := by simp [finishAtOnce]
@[simp] theorem finishAtOnce_cmd : (finishAtOnce s).cmd = s.cmd := by simp [finishAtOnce]
@[simp] theorem finishAtOnce_len : (finishAtOnce s).len = s.len := by simp [finishAtOnce]
@[simp] theorem finishAtOnce_buf : (finishAtOnce s).buf = s.buf := by simp [finishAtOnce]
@[simp] theorem finishAtOnce_ctl : (finishAtOnce s).ctl = s.ctl := by simp [finishAtOnce]
@[simp] theorem finishAtOnce_mem : (finishAtOnce s).mem = s.mem := by simp [finishAtOnce]
@[simp] theorem finishAtOnce_env : (finishAtOnce s).env = s.env := by simp [finishAtOnce]
@[simp] theorem finishAtOnce_inputs : (finishAtOnce s).inputs = s.inputs := by simp [finishAtOnce]
@[simp] theorem finishAtOnce_trace : (finishAtOnce s).trace = s.trace := by simp [finishAtOnce]
@[simp] theorem finishAtOnce_hostReads : (finishAtOnce s).hostReads = s.hostReads := by simp [finishAtOnce]

end Sys2Proof.Machine
end

