-- ==== Sys2Proof/Laws/Engine.lean ====
section
/-! SUPPORT. What an engine step can do, said once: the inversion lemmas of the engine's step function and of its two
byte actions. Later proofs cite these instead of unfolding the step. -/

namespace Sys2Proof.Machine

/-- The byte-wait states behave identically (41_transaction_engine.md R147). -/
def byteWait (e : Engine) : Prop := e.st = .awaitAddrAck ∨ e.st = .awaitByteReady

/-- The selection is NACK in one of the four waits that test it. -/
def nackSeen (s : State) : Prop :=
  (byteWait s.eng ∧ s.eng.cur.dir = .write ∧ selection s Flags.txis = .nack) ∨
    (byteWait s.eng ∧ s.eng.cur.dir = .read ∧ selection s Flags.rxne = .nack) ∨
    (s.eng.st = .awaitTransferComplete ∧ selection s Flags.tc = .nack) ∨
    (s.eng.st = .awaitStop ∧ s.eng.stopCause = .complete ∧ selection s Flags.stopf = .nack)

/-- The poll shows nothing the state waits for. -/
def nothingSeen (s : State) : Prop :=
  (s.eng.st = .awaitBusFree ∧ (polled s).busy = true) ∨
    (byteWait s.eng ∧ s.eng.cur.dir = .write ∧ selection s Flags.txis = .none) ∨
    (byteWait s.eng ∧ s.eng.cur.dir = .read ∧ selection s Flags.rxne = .none) ∨
    (s.eng.st = .awaitTransferComplete ∧ selection s Flags.tc = .none) ∨
    (s.eng.st = .awaitStop ∧ s.eng.stopCause = .complete ∧ selection s Flags.stopf = .none) ∨
    (s.eng.st = .awaitStop ∧ s.eng.stopCause = .abort ∧ (polled s).stopf = false)

/-- Everything the engine's step can do when it answers a next state. -/
theorem engineStep_cases {s t : State} (h : engineStep s = .next t) :
    (s.eng.st.busy = false ∧ t = s) ∨
    (nothingSeen s ∧ t = pollStatus s) ∨
    (nackSeen s ∧ t = abortEntry (pollStatus s)) ∨
    (s.eng.st = .awaitBusFree ∧ (polled s).busy = false ∧ ∃ d, phase1 s.eng = some d ∧ t = issue d (pollStatus s)) ∨
    (byteWait s.eng ∧ s.eng.cur.dir = .write ∧ selection s Flags.txis = .ready ∧
      sendByte (pollStatus s) = .next t) ∨
    (byteWait s.eng ∧ s.eng.cur.dir = .read ∧ selection s Flags.rxne = .ready ∧
      receiveByte (pollStatus s) = .next t) ∨
    (s.eng.st = .awaitTransferComplete ∧ selection s Flags.tc = .ready ∧ t = transferComplete (pollStatus s)) ∨
    (s.eng.st = .awaitStop ∧ s.eng.stopCause = .complete ∧ selection s Flags.stopf = .ready ∧
      t = stopComplete (pollStatus s)) ∨
    (s.eng.st = .awaitStop ∧ s.eng.stopCause = .abort ∧ (polled s).stopf = true ∧
      t = abortReturn (pollStatus s)) := by
  have byte : ∀ {r : Host.Outcome State Fault Refusal}, byteWait s.eng →
      (match s.eng.cur.dir with | .write => writeByteStep s | .read => readByteStep s) = r → r = .next t →
      (nothingSeen s ∧ t = pollStatus s) ∨ (nackSeen s ∧ t = abortEntry (pollStatus s)) ∨
      (s.eng.cur.dir = .write ∧ selection s Flags.txis = .ready ∧ sendByte (pollStatus s) = .next t) ∨
      (s.eng.cur.dir = .read ∧ selection s Flags.rxne = .ready ∧ receiveByte (pollStatus s) = .next t) := by
    intro r hw hr ht
    subst hr
    cases hd : s.eng.cur.dir with
    | write =>
      simp only [hd, writeByteStep] at ht
      cases hs : selection s Flags.txis with
      | nack => simp only [hs, Host.Outcome.next.injEq] at ht; exact Or.inr (Or.inl ⟨Or.inl ⟨hw, hd, hs⟩, ht.symm⟩)
      | ready => simp only [hs] at ht; exact Or.inr (Or.inr (Or.inl ⟨rfl, rfl, ht⟩))
      | none =>
        simp only [hs, Host.Outcome.next.injEq] at ht
        exact Or.inl ⟨Or.inr (Or.inl ⟨hw, hd, hs⟩), ht.symm⟩
    | read =>
      simp only [hd, readByteStep] at ht
      cases hs : selection s Flags.rxne with
      | nack =>
        simp only [hs, Host.Outcome.next.injEq] at ht
        exact Or.inr (Or.inl ⟨Or.inr (Or.inl ⟨hw, hd, hs⟩), ht.symm⟩)
      | ready => simp only [hs] at ht; exact Or.inr (Or.inr (Or.inr ⟨rfl, rfl, ht⟩))
      | none =>
        simp only [hs, Host.Outcome.next.injEq] at ht
        exact Or.inl ⟨Or.inr (Or.inr (Or.inl ⟨hw, hd, hs⟩)), ht.symm⟩
  unfold engineStep at h
  split at h
  next hst => simp_all [EngState.busy]
  next hst =>
    unfold busGuardStep at h
    split at h
    next hb =>
      simp only [Host.Outcome.next.injEq] at h
      exact Or.inr (Or.inl ⟨Or.inl ⟨hst, hb⟩, h.symm⟩)
    next hb =>
      split at h
      next d hd =>
        simp only [Host.Outcome.next.injEq] at h
        exact Or.inr (Or.inr (Or.inr (Or.inl ⟨hst, by simpa using hb, d, hd, h.symm⟩)))
      next => cases h
  next hst =>
    have hw : byteWait s.eng := Or.inl hst
    rcases byte hw rfl h with h | h | h | h
    · exact Or.inr (Or.inl h)
    · exact Or.inr (Or.inr (Or.inl h))
    · exact Or.inr (Or.inr (Or.inr (Or.inr (Or.inl ⟨hw, h⟩))))
    · exact Or.inr (Or.inr (Or.inr (Or.inr (Or.inr (Or.inl ⟨hw, h⟩)))))
  next hst =>
    have hw : byteWait s.eng := Or.inr hst
    rcases byte hw rfl h with h | h | h | h
    · exact Or.inr (Or.inl h)
    · exact Or.inr (Or.inr (Or.inl h))
    · exact Or.inr (Or.inr (Or.inr (Or.inr (Or.inl ⟨hw, h⟩))))
    · exact Or.inr (Or.inr (Or.inr (Or.inr (Or.inr (Or.inl ⟨hw, h⟩)))))
  next hst =>
    simp only [Host.Outcome.next.injEq] at h
    subst h
    unfold transferCompleteStep
    cases hs : selection s Flags.tc <;> simp_all [nackSeen, nothingSeen]
  next hst =>
    split at h
    next hc =>
      simp only [Host.Outcome.next.injEq] at h
      subst h
      unfold stopCompleteStep
      cases hs : selection s Flags.stopf <;> simp_all [nackSeen, nothingSeen]
    next hc =>
      simp only [Host.Outcome.next.injEq] at h
      subst h
      unfold stopAbortStep
      cases hs : (polled s).stopf <;> simp_all [nothingSeen]
  next hst => simp_all [EngState.busy]
  next hst => simp_all [EngState.busy]
  next hst => simp_all [EngState.busy]

/-- The READY action of a write phase: the pointer byte, or the next buffer byte read from memory. -/
theorem sendByte_cases {s t : State} (h : sendByte s = .next t) :
    (s.eng.idx = 0 ∧ t = afterByte (txWrite s.eng.raddr s)) ∨
    ∃ a, a = bufferAddr s.params s.eng (s.eng.idx.toNat - 1) ∧ s.eng.idx ≠ 0 ∧ inRegisters s.params a = false ∧
      t = afterByte (txWrite (Memory.read s.mem a) (s.emit (.memRead a (Memory.read s.mem a)))) := by
  unfold sendByte at h
  split at h
  · next h0 => exact Or.inl ⟨h0, by simpa using h.symm⟩
  · next h0 =>
    simp only at h
    split at h
    · cases h
    · next hr => exact Or.inr ⟨_, rfl, h0, by simpa using hr, by simpa using h.symm⟩

/-- The READY action of a read phase: the byte goes to E.data for BYTE_READ, else to the buffer. -/
theorem receiveByte_cases {s t : State} (h : receiveByte s = .next t) :
    (s.eng.op = .byteRead ∧ t = afterByte ((rxRead s).setEng { s.eng with data := received s })) ∨
    ∃ a, a = bufferAddr s.params s.eng s.eng.idx.toNat ∧ s.eng.op ≠ .byteRead ∧ inRegisters s.params a = false ∧
      t = afterByte (((rxRead s).setMem (Memory.write s.mem a (received s))).emit (.memWrite a (received s))) := by
  unfold receiveByte deliver at h
  simp only [rxRead_eng, rxRead_params, rxRead_mem] at h
  by_cases ho : s.eng.op = .byteRead
  · simp only [ho, if_true, Host.Outcome.next.injEq] at h
    exact Or.inl ⟨ho, by rw [← h]; simp only [ho]⟩
  · cases hr : inRegisters s.params (bufferAddr s.params s.eng s.eng.idx.toNat) with
    | true => simp [ho, hr] at h
    | false =>
      simp only [ho, if_false, hr, Bool.false_eq_true, Host.Outcome.next.injEq] at h
      exact Or.inr ⟨_, rfl, ho, hr, h.symm⟩

/-- The pointer byte is always sent. -/
theorem sendByte_pointer {s : State} (h : s.eng.idx = 0) : sendByte s = .next (afterByte (txWrite s.eng.raddr s)) := by
  simp only [sendByte, h, if_true]

/-- A buffer byte outside the register windows is read and sent. -/
theorem sendByte_buffer {s : State} {a : Nat} (h : s.eng.idx ≠ 0)
    (ha : a = bufferAddr s.params s.eng (s.eng.idx.toNat - 1)) (hr : inRegisters s.params a = false) :
    sendByte s = .next (afterByte (txWrite (Memory.read s.mem a) (s.emit (.memRead a (Memory.read s.mem a))))) := by
  subst ha
  simp only [sendByte, h, if_false, hr, Bool.false_eq_true]

/-- A buffer byte in a register window is refused. -/
theorem sendByte_registers {s : State} (h : s.eng.idx ≠ 0)
    (hr : inRegisters s.params (bufferAddr s.params s.eng (s.eng.idx.toNat - 1)) = true) :
    sendByte s = .refused .bufferOverlapsRegisters := by
  simp only [sendByte, h, if_false, hr, if_true]

/-- BYTE_READ's byte goes to E.data. -/
theorem receiveByte_data {s : State} (h : s.eng.op = .byteRead) :
    receiveByte s = .next (afterByte ((rxRead s).setEng { s.eng with data := received s })) := by
  simp [receiveByte, deliver, h]

/-- A burst's byte goes to the buffer. -/
theorem receiveByte_buffer {s : State} {a : Nat} (h : s.eng.op ≠ .byteRead)
    (ha : a = bufferAddr s.params s.eng s.eng.idx.toNat) (hr : inRegisters s.params a = false) :
    receiveByte s =
      .next (afterByte (((rxRead s).setMem (Memory.write s.mem a (received s))).emit (.memWrite a (received s)))) := by
  subst ha
  simp [receiveByte, deliver, h, hr]

/-- A buffer byte in a register window is refused. -/
theorem receiveByte_registers {s : State} (h : s.eng.op ≠ .byteRead)
    (hr : inRegisters s.params (bufferAddr s.params s.eng s.eng.idx.toNat) = true) :
    receiveByte s = .refused .bufferOverlapsRegisters := by
  simp [receiveByte, deliver, h, hr]

/-- Where phase 1 of Read-register goes on: RESTART into phase 2 (R156), else DONE (R157). -/
theorem transferComplete_cases (s : State) :
    (∃ d, s.eng.phase = .first ∧ phase2 s.eng = some d ∧
      transferComplete s = issue d (s.setEng { s.eng with phase := .second })) ∨
    transferComplete s = s.setEng { s.eng with st := .done } := by
  unfold transferComplete
  split
  · next d hp hd => exact Or.inl ⟨d, hp, hd, rfl⟩
  · exact Or.inr rfl

/-- A command write is taken when quiescent and leaves the state as it is while busy. -/
theorem whenQuiescent_busy (f : State → State) {s : State} (h : s.eng.st.busy = true) : whenQuiescent f s = s := by
  simp [whenQuiescent, h]

theorem whenQuiescent_quiescent (f : State → State) {s : State} (h : s.eng.st.busy = false) :
    whenQuiescent f s = f s := by
  simp [whenQuiescent, h]

@[simp] theorem step_no_input {s : State} (h : s.inputs = []) : step s = engineStep s := by
  simp [step, stepInput, h]

theorem step_input {s : State} {i : Input} {rest : List Input} (h : s.inputs = i :: rest) :
    step s = runInput i (s.setInputs rest) := by
  simp [step, stepInput, h]

/-! `afterByte` field by field is in Laws/Ops.lean; the registers it leaves alone: -/

@[simp] theorem engineAfterByte_op (e : Engine) : (engineAfterByte e).op = e.op := by
  unfold engineAfterByte; split <;> [split; skip] <;> rfl
@[simp] theorem engineAfterByte_sadd (e : Engine) : (engineAfterByte e).sadd = e.sadd := by
  unfold engineAfterByte; split <;> [split; skip] <;> rfl
@[simp] theorem engineAfterByte_raddr (e : Engine) : (engineAfterByte e).raddr = e.raddr := by
  unfold engineAfterByte; split <;> [split; skip] <;> rfl
@[simp] theorem engineAfterByte_n (e : Engine) : (engineAfterByte e).n = e.n := by
  unfold engineAfterByte; split <;> [split; skip] <;> rfl
@[simp] theorem engineAfterByte_base (e : Engine) : (engineAfterByte e).base = e.base := by
  unfold engineAfterByte; split <;> [split; skip] <;> rfl
@[simp] theorem engineAfterByte_phase (e : Engine) : (engineAfterByte e).phase = e.phase := by
  unfold engineAfterByte; split <;> [split; skip] <;> rfl
@[simp] theorem engineAfterByte_cur (e : Engine) : (engineAfterByte e).cur = e.cur := by
  unfold engineAfterByte; split <;> [split; skip] <;> rfl
@[simp] theorem engineAfterByte_idx (e : Engine) : (engineAfterByte e).idx = e.idx + 1 := by
  unfold engineAfterByte; split <;> [split; skip] <;> rfl
@[simp] theorem engineAfterByte_data (e : Engine) : (engineAfterByte e).data = e.data := by
  unfold engineAfterByte; split <;> [split; skip] <;> rfl
@[simp] theorem engineAfterByte_dataValid (e : Engine) : (engineAfterByte e).dataValid = e.dataValid := by
  unfold engineAfterByte; split <;> [split; skip] <;> rfl

end Sys2Proof.Machine
end

