-- ==== Sys2Proof/Laws/Host.lean ====
section
/-! SUPPORT. What an input of the host can do, said once: the inversion lemmas of the host's accesses. -/

namespace Sys2Proof.Machine

/-- A host read of a controller register moves at most what the environment answers. -/
theorem controllerReads_cases {offset : Nat} {s t : State} {w : Word} (h : controllerReads offset s = some (t, w)) :
    t = s ∨ t = readCr2 s ∨ t = readIsr s ∨ t = readRxdr s := by
  unfold controllerReads at h
  repeat' (split at h)
  all_goals cases h
  all_goals simp

/-- A host write of CMD is refused, or runs its word. -/
theorem writeCmd_cases {w : Word} {s t : State} (h : writeCmd w s = .next t) :
    commandBreach w s = none ∧ runCode (.cmd w) s = .next t := by
  unfold writeCmd at h
  split at h
  · cases h
  · next hn => exact ⟨hn, h⟩

/-- What the host's contract admits: the engine is quiescent, and a burst that would start has a buffer inside the buffer
port and clear of the registers. -/
theorem commandBreach_none {w : Word} {s : State} (h : commandBreach w s = none) :
    s.eng.st.busy = false ∧
      ∀ i limit, decodeCmd w = .ok i → bufferLimit i = some limit → 1 ≤ s.len.toInt → s.len.toInt ≤ limit →
        s.buf.toNat % 2 ^ s.params.addrW + s.len.toNat ≤ 2 ^ s.params.addrW ∧
          overlapsRegisters s.params (s.buf.toNat % 2 ^ s.params.addrW) s.len.toNat = false := by
  unfold commandBreach at h
  cases hb : s.eng.st.busy with
  | true => simp [hb] at h
  | false =>
    refine ⟨rfl, fun i limit hi hl h1 h2 => ?_⟩
    have small : ¬ (s.len.toInt ≤ 0 ∨ limit < s.len.toInt) := by omega
    simp only [hb, Bool.false_eq_true, if_false, hi, hl, Option.bind_some, bufferBreach, small] at h
    split at h
    · cases h
    · next hw =>
      split at h
      · cases h
      · next ho => exact ⟨Nat.le_of_not_lt hw, by simpa using ho⟩

/-- No byte of the buffer is a register. -/
theorem overlapsRegisters_false {p : Params} {base n : Nat} :
    overlapsRegisters p base n = false ↔ ∀ i, i < n → inRegisters p ((base + i) % 2 ^ p.addrW) = false := by
  simp [overlapsRegisters]

/-- Where the engine is quiescent and the buffer of a burst that would start is one the spec admits, the host may write the
command. -/
theorem commandBreach_admitted {w : Word} {s : State} {i : Instr} (hd : decodeCmd w = .ok i) (hb : s.eng.st.busy = false)
    (h : ∀ limit, bufferLimit i = some limit → 1 ≤ s.len.toInt → s.len.toInt ≤ limit → s.bufferAdmitted) :
    commandBreach w s = none := by
  simp only [commandBreach, hb, Bool.false_eq_true, if_false, hd]
  cases hl : bufferLimit i with
  | none => rfl
  | some limit =>
    simp only [Option.bind_some, bufferBreach]
    split
    · rfl
    · next hn =>
      obtain ⟨fits, clear⟩ := h limit hl (by omega) (by omega)
      rw [if_neg (by omega), if_neg]
      rw [Bool.not_eq_true, overlapsRegisters_false]
      intro k hk
      simpa using clear k hk

/-- A word that decodes to no command breaks no contract of a quiescent engine. -/
theorem commandBreach_illegal {w : Word} {s : State} {r : Reject} (hd : decodeCmd w = .error r)
    (hb : s.eng.st.busy = false) : commandBreach w s = none := by
  simp [commandBreach, hb, hd]

/-- A command word decodes to a command. -/
theorem decodeCmd_isCommand {w : Word} {i : Instr} (h : decodeCmd w = .ok i) : i.isCommand = true := by
  unfold decodeCmd at h
  repeat' (split at h)
  all_goals first | (cases h; rfl) | cases h

/-- An access key decodes to an access. -/
theorem decodeKey_isCommand {b : Binding} {k : Key} {i : Instr} (h : decodeKey b k = .ok i) : i.isCommand = false := by
  unfold decodeKey at h
  repeat' (split at h)
  all_goals first | (cases h; rfl) | cases h

/-- Everything a host write can do when it answers a next state: store LEN or BUF, be ignored, run the code written to
CMD, change the controller while the engine is quiescent, or store bytes the engine does not borrow. -/
theorem hostWrite_cases {addr : Word} {size : Size} {value : Word} {s t : State}
    (h : hostWrite addr size value s = .next t) :
    t = s ∨ t = s.setLen value ∨ t = s.setBuf value ∨ (commandBreach value s = none ∧ runCode (.cmd value) s = .next t) ∨
    (s.eng.st.busy = false ∧ ∃ c, t = s.setCtl c) ∨
    ∃ span : List Word, (∀ a ∈ span, a.toNat < 2 ^ s.params.addrW ∧ borrowed s.params s.eng a.toNat = false) ∧
      t = s.setMem (storeBytes value span s.mem) := by
  unfold hostWrite at h
  split at h
  · unfold writeCommandRegister at h
    repeat' (split at h)
    · exact Or.inr (Or.inr (Or.inr (Or.inl (writeCmd_cases h))))
    · exact Or.inr (Or.inl (Host.Outcome.next.inj h).symm)
    · exact Or.inr (Or.inr (Or.inl (Host.Outcome.next.inj h).symm))
    · exact Or.inl (Host.Outcome.next.inj h).symm
    · cases h
  · split at h
    · cases h
    · next hb =>
      unfold writeControllerRegister at h
      split at h
      · next c _ =>
        exact Or.inr (Or.inr (Or.inr (Or.inr (Or.inl ⟨by simpa using hb, c, (Host.Outcome.next.inj h).symm⟩))))
      · cases h
  · next span _ =>
    unfold memoryStop at h
    split at h
    · simp at h
    · next h1 =>
      split at h
      · simp at h
      · next h2 =>
        simp only [Option.getD_none, Host.Outcome.next.injEq] at h
        refine Or.inr (Or.inr (Or.inr (Or.inr (Or.inr ⟨span, fun a ha => ⟨?_, ?_⟩, h.symm⟩))))
        · simp only [List.any_eq_true, decide_eq_true_eq, not_exists, not_and] at h1
          exact Nat.lt_of_not_le (h1 a ha)
        · simp only [List.any_eq_true, not_exists, not_and, Bool.not_eq_true] at h2
          exact h2 a ha
  · cases h

/-- Everything a host read can do when it answers a next state: answer the host, and move what the environment answers
when a controller register is read. -/
theorem hostRead_cases {addr : Word} {size : Size} {s t : State} (h : hostRead addr size s = .next t) :
    ∃ w, t = s.answerHost w ∨
      (s.eng.st.busy = false ∧
        (t = (readCr2 s).answerHost w ∨ t = (readIsr s).answerHost w ∨ t = (readRxdr s).answerHost w)) := by
  unfold hostRead at h
  split at h
  · unfold readCommandRegister at h
    split at h
    · next w _ => exact ⟨w, Or.inl (Host.Outcome.next.inj h).symm⟩
    · cases h
  · split at h
    · cases h
    · next hb =>
      unfold readControllerRegister at h
      split at h
      · next u w hu =>
        have ht := (Host.Outcome.next.inj h).symm
        rcases controllerReads_cases hu with rfl | rfl | rfl | rfl
        · exact ⟨w, Or.inl ht⟩
        · exact ⟨w, Or.inr ⟨by simpa using hb, Or.inl ht⟩⟩
        · exact ⟨w, Or.inr ⟨by simpa using hb, Or.inr (Or.inl ht)⟩⟩
        · exact ⟨w, Or.inr ⟨by simpa using hb, Or.inr (Or.inr ht)⟩⟩
      · cases h
  · next span _ =>
    unfold memoryStop at h
    split at h
    · simp at h
    · split at h
      · simp at h
      · simp only [Option.getD_none, Host.Outcome.next.injEq] at h
        exact ⟨_, Or.inl h.symm⟩
  · cases h

/-- Everything a code can do: its instruction, or the accept of an illegal word. -/
theorem runCode_cases {c : Code} {s t : State} (h : runCode c s = .next t) :
    (∃ i, decode s.params.regif c = .ok i ∧ exec i s = .next t) ∨ ∃ w, c = .cmd w ∧ t = acceptIllegal w s := by
  unfold runCode at h
  split at h
  · next i hi => exact Or.inl ⟨i, hi, h⟩
  · next w _ _ => exact Or.inr ⟨w, rfl, (Host.Outcome.next.inj h).symm⟩
  · cases h

/-- Where the host's word access to command register `offset` goes. -/
theorem target_command (p : Params) (offset : Nat) (h : offset < 16) :
    target p (p.engineBase + BitVec.ofNat 32 offset) .word = .command offset := by
  have hoff : (p.engineBase + BitVec.ofNat 32 offset - p.engineBase).toNat = offset := by
    have : p.engineBase + BitVec.ofNat 32 offset - p.engineBase = BitVec.ofNat 32 offset := by
      rw [BitVec.add_comm, BitVec.add_sub_cancel]
    rw [this, BitVec.toNat_ofNat]
    exact Nat.mod_eq_of_lt (by omega)
  have : touches p.engineBase engineWindow (spanFrom (p.engineBase + BitVec.ofNat 32 offset) Size.word.bytes) = true := by
    simp only [touches, Size.bytes, spanFrom, List.any_cons, inWindow, hoff, engineWindow, h, decide_true, Bool.true_or]
  simp only [target, this, if_true, hoff]

/-- The host's write of CMD is `writeCmd`. -/
theorem hostWrite_cmd (w : Word) (s : State) : hostWrite s.params.engineBase .word w s = writeCmd w s := by
  have place := target_command s.params 0 (by omega)
  simp only [BitVec.add_zero] at place
  simp [hostWrite, place, writeCommandRegister]

theorem inWindow_offset (base : Word) (offset size : Nat) (h : offset < size) :
    inWindow base size (base + BitVec.ofNat 32 offset) = true := by
  have back : base + BitVec.ofNat 32 offset - base = BitVec.ofNat 32 offset := by
    rw [BitVec.add_comm, BitVec.add_sub_cancel]
  simp only [inWindow, back, BitVec.toNat_ofNat, decide_eq_true_eq]
  exact Nat.lt_of_le_of_lt (Nat.mod_le _ _) h

/-- Where the host's word access to the controller register at `offset` goes. -/
theorem target_controller (p : Params) (offset : Byte) (h : offset.toNat + 4 ≤ p.regif.window) (hd : WindowsDisjoint p) :
    target p (p.regBase + offset.setWidth 32) .word = .controller offset.toNat := by
  have small := offset.isLt
  have place : offset.setWidth 32 = BitVec.ofNat 32 offset.toNat := by apply BitVec.eq_of_toNat_eq; simp
  have add : ∀ k, p.regBase + BitVec.ofNat 32 offset.toNat + BitVec.ofNat 32 k =
      p.regBase + BitVec.ofNat 32 (offset.toNat + k) := by
    intro k
    rw [BitVec.add_assoc, ← BitVec.ofNat_add]
  have span : spanFrom (p.regBase + BitVec.ofNat 32 offset.toNat) Size.word.bytes =
      [p.regBase + BitVec.ofNat 32 offset.toNat, p.regBase + BitVec.ofNat 32 (offset.toNat + 1),
        p.regBase + BitVec.ofNat 32 (offset.toNat + 2), p.regBase + BitVec.ofNat 32 (offset.toNat + 3)] := by
    simp only [Size.bytes, spanFrom, ← add, BitVec.add_assoc]
    rfl
  have outside : ∀ k, k < p.regif.window → inWindow p.engineBase engineWindow (p.regBase + BitVec.ofNat 32 k) = false := by
    intro k hk
    have := hd (p.regBase + BitVec.ofNat 32 k)
    rw [inWindow_offset p.regBase k p.regif.window hk] at this
    simpa using this
  have back : (p.regBase + BitVec.ofNat 32 offset.toNat - p.regBase).toNat = offset.toNat := by
    have : p.regBase + BitVec.ofNat 32 offset.toNat - p.regBase = BitVec.ofNat 32 offset.toNat := by
      rw [BitVec.add_comm, BitVec.add_sub_cancel]
    rw [this, BitVec.toNat_ofNat]
    exact Nat.mod_eq_of_lt (by omega)
  have inside := inWindow_offset p.regBase offset.toNat p.regif.window (by omega)
  rw [place]
  unfold target
  rw [span]
  simp only [touches, List.any_cons, List.any_nil, outside offset.toNat (by omega), outside (offset.toNat + 1) (by omega),
    outside (offset.toNat + 2) (by omega), outside (offset.toNat + 3) (by omega), inside, Bool.or_false, Bool.false_eq_true,
    if_false, Bool.true_or, if_true, back]

end Sys2Proof.Machine
end

