-- ==== Sys2Proof/Laws/PerInstr.lean ====
section
/-! SUPPORT. A law of every instruction as syntax, one lemma a constructor. -/

namespace Sys2Proof.Laws

/-- In every binding, the code of a well-formed instruction has the bits its row asks for (30_encoding.md R99 and
spec/opcode_table.json): the pattern under the mask. -/
def EncodeMatchesTable.Statement (i : Instr) : Prop :=
  ∀ b : Binding, i.wellFormed b = true →
    match i, encode b i with
    | .byteRead _ _, .cmd w => w &&& 0xFF0080FF = 0x00000001
    | .burstRead _ _, .cmd w => w &&& 0xFF0080FF = 0x00000002
    | .burstWrite _ _, .cmd w => w &&& 0xFF0080FF = 0x00000003
    | .pollStatus, .access k => (rowPollStatus b).hits k = true
    | .ctrlRead, .access k => (rowCtrlRead b).hits k = true
    | .writeCtrl _, .access k => (rowWriteCtrl b).hits k = true
    | .triggerStart _, .access k => (rowTriggerStart b).hits k = true
    | .triggerStop _, .access k => (rowTriggerStop b).hits k = true
    | .txWrite _, .access k => (rowTxWrite b).hits k = true
    | .rxRead, .access k => (rowRxRead b).hits k = true
    | .clearNack, .access k => (rowClearNack b).hits k = true
    | .clearStop, .access k => (rowClearStop b).hits k = true
    | _, _ => False

/-- A command word under the mask of the CMD rows is its OP. -/
theorem cmdWord_masked (op : BitVec 4) (sadd : BitVec 7) (raddr : Byte) :
    cmdWord op sadd raddr &&& 0xFF0080FF = op.setWidth 32 := by
  apply BitVec.eq_of_getLsbD_eq
  intro i hi
  interval_cases i <;> simp [cmdWord]

/-- A word under the mask of all bits is itself. -/
theorem word_and_ones (x : Word) : x &&& 0xFFFFFFFF = x := BitVec.and_allOnes (x := x)

namespace EncodeMatchesTable

theorem byteRead (sadd : BitVec 7) (raddr : Byte) : Statement (.byteRead sadd raddr) :=
  fun _ _ => cmdWord_masked 1 sadd raddr
theorem burstRead (sadd : BitVec 7) (raddr : Byte) : Statement (.burstRead sadd raddr) :=
  fun _ _ => cmdWord_masked 2 sadd raddr
theorem burstWrite (sadd : BitVec 7) (raddr : Byte) : Statement (.burstWrite sadd raddr) :=
  fun _ _ => cmdWord_masked 3 sadd raddr
theorem pollStatus : Statement .pollStatus := fun _ _ => (readRow_hits _ _ _ _).2 ⟨rfl, rfl⟩
theorem ctrlRead : Statement .ctrlRead := fun _ _ => (readRow_hits _ _ _ _).2 ⟨rfl, rfl⟩
theorem writeCtrl (value : Word) : Statement (.writeCtrl value) := fun _ h =>
  (writeRow_hits _ _ _ _ _ _).2 ⟨rfl, rfl, beq_iff_eq.1 h⟩
theorem triggerStart (value : Word) : Statement (.triggerStart value) := fun _ h =>
  (writeRow_hits _ _ _ _ _ _).2 ⟨rfl, rfl, beq_iff_eq.1 h⟩
theorem triggerStop (value : Word) : Statement (.triggerStop value) := fun _ h =>
  (writeRow_hits _ _ _ _ _ _).2 ⟨rfl, rfl, beq_iff_eq.1 h⟩
theorem txWrite (x : Byte) : Statement (.txWrite x) := fun b _ =>
  (writeRow_hits _ _ _ _ _ _).2 ⟨rfl, rfl, txWord_and_mask b x⟩
theorem rxRead : Statement .rxRead := fun _ _ => (readRow_hits _ _ _ _).2 ⟨rfl, rfl⟩
theorem clearNack : Statement .clearNack := fun _ _ => (writeRow_hits _ _ _ _ _ _).2 ⟨rfl, rfl, word_and_ones _⟩
theorem clearStop : Statement .clearStop := fun _ _ => (writeRow_hits _ _ _ _ _ _).2 ⟨rfl, rfl, word_and_ones _⟩

end EncodeMatchesTable

end Sys2Proof.Laws
end

