-- ==== Sys2Proof/Laws/Run.lean ====
section
/-! SUPPORT. Runs of steps, the answers the environment lists, and the step of each wait whose flag is shown. -/

namespace Sys2Proof.Machine

/-! ### Runs -/

theorem run_succ (k : Nat) {s t : State} (h : step s = .next t) :
    Sys2Proof.core.run (k + 1) s = Sys2Proof.core.run k t := by
  have : Sys2Proof.core.step s = .next t := h
  simp [Host.Core.run, this]

theorem run_append (a b : Nat) {s t : State} (h : Sys2Proof.core.run a s = .next t) :
    Sys2Proof.core.run (a + b) s = Sys2Proof.core.run b t := by
  induction a generalizing s with
  | zero =>
    have : s = t := Host.Outcome.next.inj h
    subst this
    rw [Nat.zero_add]
  | succ a ih =>
    rw [show a + 1 + b = (a + b) + 1 by omega]
    simp only [Host.Core.run] at h ⊢
    split at h
    · next u _ => exact ih (s := u) h
    · cases h
    · cases h

/-! ### Listed answers -/

theorem polled_cons {s : State} {w : Word} {rest : List Word} (h : s.env.status = w :: rest) :
    polled s = flagsOf s.params.regif w := by
  simp [polled, nextStatus, h]

theorem afterStatus_cons {v : Env} {w : Word} {rest : List Word} (h : v.status = w :: rest) :
    afterStatus v = { v with status := rest } := by
  simp [afterStatus, h]

theorem afterRx_cons {v : Env} {w : Word} {rest : List Word} (h : v.rx = w :: rest) :
    afterRx v = { v with rx := rest } := by
  simp [afterRx, h]

@[simp] theorem afterCtrl_status (v : Env) : (afterCtrl v).status = v.status := by unfold afterCtrl; split <;> rfl
@[simp] theorem afterCtrl_rx (v : Env) : (afterCtrl v).rx = v.rx := by unfold afterCtrl; split <;> rfl
@[simp] theorem afterStatus_rx (v : Env) : (afterStatus v).rx = v.rx := by unfold afterStatus; split <;> rfl
@[simp] theorem afterStatus_ctrl (v : Env) : (afterStatus v).ctrl = v.ctrl := by unfold afterStatus; split <;> rfl
@[simp] theorem afterRx_status (v : Env) : (afterRx v).status = v.status := by unfold afterRx; split <;> rfl
@[simp] theorem afterRx_ctrl (v : Env) : (afterRx v).ctrl = v.ctrl := by unfold afterRx; split <;> rfl

/-! ### The step of each wait -/

/-- With NACKF clear and the awaited flag set, both priorities select READY (40_bus_guard_and_primitives.md R121). -/
theorem selection_ready {s : State} {awaited : Flags → Bool} (hn : (polled s).nackf = false)
    (ha : awaited (polled s) = true) : selection s awaited = .ready := by
  cases hp : s.params.nackPriority <;> simp [selection, select, hn, ha, hp]

/-- READY is selected only on a poll that shows the awaited flag. -/
theorem select_ready_awaited {p : NackPriority} {nackf awaited : Bool} (h : select p nackf awaited = .ready) :
    awaited = true := by
  cases p <;> cases nackf <;> cases awaited <;> simp [select] at h <;> rfl

/-- NACK is selected only on a poll that shows NACKF. -/
theorem select_nack_nackf {p : NackPriority} {nackf awaited : Bool} (h : select p nackf awaited = .nack) :
    nackf = true := by
  cases p <;> cases nackf <;> cases awaited <;> simp [select] at h <;> rfl

theorem step_busGuard {s : State} {d : Descriptor} (hi : s.inputs = []) (hs : s.eng.st = .awaitBusFree)
    (hb : (polled s).busy = false) (hd : phase1 s.eng = some d) : step s = .next (issue d (pollStatus s)) := by
  simp [step_no_input hi, engineStep, hs, busGuardStep, hb, hd]

theorem step_sendByte {s : State} (hi : s.inputs = []) (hs : byteWait s.eng) (hd : s.eng.cur.dir = .write)
    (hn : (polled s).nackf = false) (ht : (polled s).txis = true) : step s = sendByte (pollStatus s) := by
  have : engineStep s = writeByteStep s := by rcases hs with hs | hs <;> simp [engineStep, hs, hd]
  rw [step_no_input hi, this, writeByteStep, selection_ready hn ht]

theorem step_receiveByte {s : State} (hi : s.inputs = []) (hs : byteWait s.eng) (hd : s.eng.cur.dir = .read)
    (hn : (polled s).nackf = false) (ht : (polled s).rxne = true) : step s = receiveByte (pollStatus s) := by
  have : engineStep s = readByteStep s := by rcases hs with hs | hs <;> simp [engineStep, hs, hd]
  rw [step_no_input hi, this, readByteStep, selection_ready hn ht]

theorem step_transferComplete {s : State} (hi : s.inputs = []) (hs : s.eng.st = .awaitTransferComplete)
    (hn : (polled s).nackf = false) (ht : (polled s).tc = true) :
    step s = .next (transferComplete (pollStatus s)) := by
  simp [step_no_input hi, engineStep, hs, transferCompleteStep, selection_ready hn ht]

theorem step_stopComplete {s : State} (hi : s.inputs = []) (hs : s.eng.st = .awaitStop)
    (hc : s.eng.stopCause = .complete) (hn : (polled s).nackf = false) (ht : (polled s).stopf = true) :
    step s = .next (stopComplete (pollStatus s)) := by
  simp [step_no_input hi, engineStep, hs, hc, stopCompleteStep, selection_ready hn ht]

theorem step_stopAbort {s : State} (hi : s.inputs = []) (hs : s.eng.st = .awaitStop)
    (hc : s.eng.stopCause = .abort) (ht : (polled s).stopf = true) :
    step s = .next (abortReturn (pollStatus s)) := by
  simp [step_no_input hi, engineStep, hs, hc, stopAbortStep, ht]

/-- R148 for a byte that is not the last of its phase. -/
theorem engineAfterByte_more {e : Engine} (h : e.idx + 1 ≠ e.cur.count) :
    engineAfterByte e = { e with idx := e.idx + 1, st := .awaitByteReady } := by
  unfold engineAfterByte
  rw [if_neg h]

/-- R148 for the last byte of an AUTO_END phase. -/
theorem engineAfterByte_autoEnd {e : Engine} (h : e.idx + 1 = e.cur.count) (hm : e.cur.em = .autoEnd) :
    engineAfterByte e = { e with idx := e.idx + 1, stopCause := .complete, st := .awaitStop } := by
  unfold engineAfterByte
  rw [if_pos h, hm]

/-- R148 for the last byte of a SOFTWARE_END phase. -/
theorem engineAfterByte_softwareEnd {e : Engine} (h : e.idx + 1 = e.cur.count) (hm : e.cur.em = .softwareEnd) :
    engineAfterByte e = { e with idx := e.idx + 1, st := .awaitTransferComplete } := by
  unfold engineAfterByte
  rw [if_pos h, hm]

/-! ### Pending inputs do not steer the engine -/

/-- The outcome with its next state's pending inputs replaced. -/
def withInputs (l : List Input) : Host.Outcome State Fault Refusal → Host.Outcome State Fault Refusal
  | .next t => .next (t.setInputs l)
  | .fault f => .fault f
  | .refused r => .refused r

/-- The engine's step neither reads nor changes the pending inputs. -/
theorem engineStep_setInputs (s : State) (l : List Input) : engineStep (s.setInputs l) = withInputs l (engineStep s) := by
  have hsend : ∀ s : State, sendByte (s.setInputs l) = withInputs l (sendByte s) := by
    intro s
    unfold sendByte
    by_cases h : s.eng.idx = 0
    · simp only [h, setInputs_eng, if_true]; rfl
    · simp only [h, setInputs_eng, if_false]
      cases hr : inRegisters s.params (bufferAddr s.params s.eng (s.eng.idx.toNat - 1)) <;> simp [hr] <;> rfl
  have hrecv : ∀ s : State, receiveByte (s.setInputs l) = withInputs l (receiveByte s) := by
    intro s
    unfold receiveByte deliver
    by_cases h : s.eng.op = .byteRead
    · simp [h]; rfl
    · cases hr : inRegisters s.params (bufferAddr s.params s.eng s.eng.idx.toNat) <;> simp [h, hr] <;> rfl
  have htc : ∀ s : State, transferComplete (s.setInputs l) = (transferComplete s).setInputs l := by
    intro s
    unfold transferComplete
    simp only [setInputs_eng]
    cases s.eng.phase <;> cases phase2 s.eng <;> rfl
  have hp : pollStatus (s.setInputs l) = (pollStatus s).setInputs l := rfl
  have hpoll : polled (s.setInputs l) = polled s := rfl
  have hsel : ∀ a, selection (s.setInputs l) a = selection s a := fun _ => rfl
  unfold engineStep busGuardStep writeByteStep readByteStep transferCompleteStep stopCompleteStep stopAbortStep
  simp only [hp, hpoll, hsel, hsend, hrecv, htc, setInputs_eng]
  cases s.eng.st <;> simp only
  case awaitBusFree => cases (polled s).busy <;> cases phase1 s.eng <;> rfl
  case awaitAddrAck =>
    cases s.eng.cur.dir <;> simp only
    · cases selection s Flags.txis <;> rfl
    · cases selection s Flags.rxne <;> rfl
  case awaitByteReady =>
    cases s.eng.cur.dir <;> simp only
    · cases selection s Flags.txis <;> rfl
    · cases selection s Flags.rxne <;> rfl
  case awaitTransferComplete => cases selection s Flags.tc <;> rfl
  case awaitStop =>
    cases s.eng.stopCause <;> simp only
    · cases selection s Flags.stopf <;> rfl
    · cases (polled s).stopf <;> rfl
  all_goals rfl

end Sys2Proof.Machine
end

