-- ==== Sys2Proof/Tests/Slice0.lean ====
section
/-! SUPPORT. Tests: ill-formed terms, decoding of words written out from 30_encoding.md, one-step tests with the expected
results of 95_test_vectors.md, and a witness of the hypotheses of each statement of the certificate. -/

open Sys2Proof Sys2Proof.Machine

namespace Sys2Proof.Tests

/-! ### WellFormed refuses -/

theorem test_wellFormed_writeCtrl_with_start : (Instr.writeCtrl 0x000120D0).wellFormed .stm32f3 = false := by decide
theorem test_wellFormed_triggerStart_with_stop : (Instr.triggerStart 0x000160D0).wellFormed .stm32f3 = false := by decide
theorem test_wellFormed_triggerStop_without_stop : (Instr.triggerStop 0x000100D0).wellFormed .stm32f3 = false := by decide
theorem test_wellFormed_controlWrites : (Instr.writeCtrl 0x000100D0).wellFormed .stm32f3 = true ∧
    (Instr.triggerStart 0x000120D0).wellFormed .stm32f3 = true ∧ (Instr.triggerStop 0x020440A0).wellFormed .stm32f3 = true := by decide

/-! ### Decoding, bit by bit: `00000000 AAAAAAAA 0SSSSSSS 0000PPPP` (R80), and W, OFFSET, VALUE (R99) -/

theorem test_decode_byteRead :
    decodeTableWord 32 0b00000000011101010110100000000001 = some (.byteRead 0x68 0x75) := by decide
theorem test_decode_burstRead :
    decodeTableWord 32 0b00000000000100000101000000000010 = some (.burstRead 0x50 0x10) := by decide
theorem test_decode_burstWrite :
    decodeTableWord 32 0b00000000000000000111111100000011 = some (.burstWrite 0x7F 0x00) := by decide
theorem test_decode_pollStatus :
    decodeTableWord 48 0b00001100000000000000000000000000000000000 = some .pollStatus := by decide
theorem test_decode_ctrlRead :
    decodeTableWord 48 0b00000010000000000000000000000000000000000 = some .ctrlRead := by decide
theorem test_decode_writeCtrl :
    decodeTableWord 48 0b10000010000000000000000010000000011010000 = some (.writeCtrl 0x000100D0) := by decide
theorem test_decode_triggerStart :
    decodeTableWord 48 0b10000010000000000000000010010000011010000 = some (.triggerStart 0x000120D0) := by decide
theorem test_decode_triggerStop :
    decodeTableWord 48 0b10000010000000010000001000100000010100000 = some (.triggerStop 0x020440A0) := by decide
theorem test_decode_txWrite :
    decodeTableWord 48 0b10010100000000000000000000000000001110101 = some (.txWrite 0x75) := by decide
theorem test_decode_rxRead :
    decodeTableWord 48 0b00010010000000000000000000000000000000000 = some .rxRead := by decide
theorem test_decode_clearNack :
    decodeTableWord 48 0b10001110000000000000000000000000000010000 = some .clearNack := by decide
theorem test_decode_clearStop :
    decodeTableWord 48 0b10001110000000000000000000000000000100000 = some .clearStop := by decide

/-- The ILLEGAL words of 95_test_vectors.md 2.1. -/
theorem test_decode_illegalWords :
    [0x00000000, 0x00000004, 0x0000000F, 0x00000011, 0x00000081, 0x00008001, 0x01000001, 0x80105003].all
      (fun w => (decodeTableWord 32 w).isNone) = true := by decide

/-- A write of CR2 with START and STOP both set, of TXDR with a bit above 7, and of ICR with another flag match no row
(R99), and neither does a key with a bit above bit 40. -/
theorem test_decode_unmatchedKeys :
    [0x104000060D0, 0x12800000175, 0x11C00000030, 0x01C00000000, 0x30400000000].all
      (fun w => (decodeTableWord 48 w).isNone) = true := by decide

/-! ### The binding: another well-formed layout moves every event's registers and bits -/

/-- A layout of no device: the default one with CR2 and ISR exchanged, START and STOP moved to the top bits, and NACKF at
bit 20 cleared by bit 0 of ICR. -/
def shifted : Binding :=
  { Binding.stm32f3 with
    offset := { Binding.stm32f3.offset with cr2 := 0x18, isr := 0x04 }
    cr2 := { Binding.stm32f3.cr2 with start := 30, stop := 31 }
    isr := { Binding.stm32f3.isr with nackf := 20 }
    icr := { Binding.stm32f3.icr with nackcf := 0 } }

theorem shifted_wellFormed : shifted.WellFormed where
  offsets := by decide
  inWindow := by decide
  control := by unfold Apart; decide
  controlFits := by decide
  flags := by decide
  flagsFit := by decide
  clears := by decide
  clearsFit := by decide
  dataFits := by decide
  enable := by decide

theorem test_binding_is_replaceable :
    decodeKey shifted 0x10400002000 = .error .noSuchAccess ∧ encode shifted .clearNack = .access 0x11C00000001 ∧
    (flagsOf shifted 0x00100000).nackf = true ∧ clearedBits shifted 0x00000001 = 0x00100000 := by
  refine ⟨rfl, ?_⟩
  decide

/-! ### Small states -/

/-- The reset state with these engine registers and these answers of the environment. -/
def machineAt (e : Engine) (status rx : List Word) (mem : Memory) : State :=
  { State.reset with eng := e, mem := mem, env := { status := status, ctrl := [0x000100D0], rx := rx, asked := 0 } }

/-- BYTE_READ 0x68, 0x75 at the Bus Guard. -/
def readGuard : Engine := { Engine.reset with st := .awaitBusFree, op := .byteRead, sadd := 0x68, raddr := 0x75 }

/-- BYTE_READ's phase 2, waiting for its byte. -/
def readByte : Engine :=
  { readGuard with st := .awaitAddrAck, phase := .second, cur := ⟨.read, 1, .autoEnd⟩ }

/-- BURST_READ of 3 bytes in phase 1's completion wait. -/
def burstTc : Engine :=
  { Engine.reset with
    st := .awaitTransferComplete, op := .burstRead, sadd := 0x50, raddr := 0x10, n := 3, base := 0x20000100,
    cur := ⟨.write, 1, .softwareEnd⟩, idx := 1 }

/-- BURST_READ of 3 bytes in phase 2, with `idx` bytes received. -/
def burstIn (idx : Byte) : Engine :=
  { burstTc with st := .awaitByteReady, phase := .second, cur := ⟨.read, 3, .autoEnd⟩, idx := idx }

/-- BURST_WRITE of 3 bytes with `idx` bytes sent. -/
def burstOut (idx : Byte) : Engine :=
  { Engine.reset with
    st := .awaitByteReady, op := .burstWrite, sadd := 0x50, raddr := 0x10, n := 3, base := 0x20000000,
    cur := ⟨.write, 4, .autoEnd⟩, idx := idx }

/-- BURST_WRITE of 3 bytes at the end of its phase, with this cause of the STOP wait. -/
def burstStop (cause : StopCause) : Engine := { burstOut 4 with st := .awaitStop, stopCause := cause }

/-- The buffer of 95_test_vectors.md 2.5. -/
def buffer : Memory := [(0x20000000, 0xAA), (0x20000001, 0xBB), (0x20000002, 0xCC)]

/-- A state whose next input is `i`. -/
def facing (i : Input) (e : Engine) : State := (machineAt e [] [] []).setInputs [i]

/-- STATUS after the outcome. -/
def statusOf : Host.Outcome State Fault Refusal → Option Word
  | .next t => some (statusWord t.eng)
  | .fault _ => none
  | .refused _ => none

/-- The port accesses of the outcome. -/
def traceOf : Host.Outcome State Fault Refusal → Option (List Event)
  | .next t => some t.trace
  | .fault _ => none
  | .refused _ => none

/-- The controller after the outcome. -/
def ctlOf : Host.Outcome State Fault Refusal → Option Controller
  | .next t => some t.ctl
  | .fault _ => none
  | .refused _ => none

/-- The byte at `a` after the outcome. -/
def byteAt (a : Nat) : Host.Outcome State Fault Refusal → Option Byte
  | .next t => some (Memory.read t.mem a)
  | .fault _ => none
  | .refused _ => none

/-- The answers to the host after the outcome. -/
def readsOf : Host.Outcome State Fault Refusal → Option (List Word)
  | .next t => some t.hostReads
  | .fault _ => none
  | .refused _ => none

/-! ### The instructions (95_test_vectors.md 2.2 and 2.7) -/

theorem test_byteRead_accept : statusOf (exec (.byteRead 0x50 0x10) (State.reset.setLen 0xFFFFFFFF)) = some 0x11 := by decide
theorem test_burstRead_limit : statusOf (exec (.burstRead 0x50 0x10) (State.reset.setLen 255)) = some 0x11 ∧
    statusOf (exec (.burstRead 0x50 0x10) (State.reset.setLen 0x80000000)) = some 0x06 := by decide
theorem test_burstRead_reject :
    traceOf (exec (.burstRead 0x50 0x10) ((machineAt Engine.reset [] [] []).setLen 256)) = some [.ctrlRead 0x000100D0, .stop] ∧
    statusOf (exec (.burstRead 0x50 0x10) ((machineAt Engine.reset [] [] []).setLen 256)) = some 0x07 := by decide
theorem test_burstWrite_limit : statusOf (exec (.burstWrite 0x50 0x10) (State.reset.setLen 254)) = some 0x11 ∧
    statusOf (exec (.burstWrite 0x50 0x10) (State.reset.setLen 0)) = some 0x06 := by decide
theorem test_burstWrite_reject :
    statusOf (exec (.burstWrite 0x50 0x10) ((machineAt Engine.reset [] [] []).setLen 255)) = some 0x07 := by decide

/-- ISR = 0x0000_8001 gives {BUSY}: TXE is discarded. -/
theorem test_pollStatus_flags : traceOf (exec .pollStatus (machineAt Engine.reset [0x00008001] [] [])) =
    some [.poll ⟨true, false, false, false, false, false, false, false⟩] := by decide
theorem test_ctrlRead_value : traceOf (exec .ctrlRead (machineAt Engine.reset [] [] [])) = some [.ctrlRead 0x000100D0] := by decide
/-- WC(0x68,R,1,AE) is CR2 <- 0x0201_04D0; WC(0x7F,W,1,SE) is CR2 <- 0x0001_00FE. -/
theorem test_writeCtrl_words : ctrlWord .stm32f3 ⟨0x68, .read, 1, .autoEnd⟩ = 0x020104D0 ∧
    ctrlWord .stm32f3 ⟨0x7F, .write, 1, .softwareEnd⟩ = 0x000100FE ∧
    traceOf (exec (.writeCtrl 0x020104D0) State.reset) = some [.writeCtrl ⟨0x68, .read, 1, .autoEnd⟩] := by decide
/-- ST where CR2 reads 0x0001_00D0 writes 0x0001_20D0, and SP 0x0001_40D0. -/
theorem test_triggers_keep_other_bits : (triggerStart (machineAt Engine.reset [] [] [])).ctl.cr2 = 0x000120D0 ∧
    (triggerStop (machineAt Engine.reset [] [] [])).ctl.cr2 = 0x000140D0 := by decide
theorem test_triggerStart_event : traceOf (exec (.triggerStart 0x000120D0) State.reset) = some [.start] := by decide
theorem test_triggerStop_event : traceOf (exec (.triggerStop 0x020440A0) State.reset) = some [.stop] := by decide
theorem test_txWrite_zext : (ctlOf (exec (.txWrite 0xF5) State.reset)).map (·.txdr) = some 0x000000F5 := by decide
theorem test_rxRead_discards : traceOf (exec .rxRead (machineAt Engine.reset [] [0x0000FF68] [])) = some [.rx 0x68] := by decide
theorem test_clearNack_only : (ctlOf (exec .clearNack (State.reset.setCtl { Binding.stm32f3.reset with isr := 0x8038 }))).map
    (·.isr) = some 0x8028 := by decide
theorem test_clearStop_only : (ctlOf (exec .clearStop (State.reset.setCtl { Binding.stm32f3.reset with isr := 0x8038 }))).map
    (·.isr) = some 0x8018 := by decide

/-- After a BYTE_READ that ended in 0x0001_6866: an illegal word gives 0x0000_6808 (2.7). -/
theorem test_illegal_keeps_data :
    statusWord (acceptIllegal 0 (machineAt { readByte with st := .done, idx := 1, data := 0x68, dataValid := true } [] [] [])).eng =
      0x00006808 := by decide

/-! ### The engine's steps (95_test_vectors.md 2.4 to 2.6) -/

theorem test_busGuard_issue : traceOf (step (machineAt readGuard [0x30] [] [])) =
      some [.poll (flagsOf .stm32f3 0x30), .writeCtrl ⟨0x68, .write, 1, .softwareEnd⟩, .ctrlRead 0x000100D0, .start] ∧
    statusOf (step (machineAt readGuard [0x30] [] [])) = some 0x12 := by decide
theorem test_busGuard_spin : statusOf (step (machineAt readGuard [0x8010] [] [])) = some 0x11 := by decide
theorem test_writeStep_last : traceOf (step (machineAt (burstOut 3) [0x02] [] buffer)) =
      some [.poll (flagsOf .stm32f3 0x02), .memRead 0x20000002 0xCC, .tx 0xCC] ∧
    statusOf (step (machineAt (burstOut 3) [0x02] [] buffer)) = some 0x00040015 := by decide
theorem test_writeStep_nack : traceOf (step (machineAt (burstOut 2) [0x12] [] buffer)) =
      some [.poll (flagsOf .stm32f3 0x12), .clearNack, .ctrlRead 0x000100D0, .stop] ∧
    statusOf (step (machineAt (burstOut 2) [0x12] [] buffer)) = some 0x00020095 := by decide
theorem test_readStep_last : byteAt 0x20000102 (step (machineAt (burstIn 2) [0x04] [0xFF] [])) = some 0xFF ∧
    statusOf (step (machineAt (burstIn 2) [0x04] [0xFF] [])) = some 0x00030055 := by decide
theorem test_readStep_byteRead : statusOf (step (machineAt readByte [0x04] [0x68] [])) = some 0x00016855 := by decide
theorem test_transferComplete_restart : traceOf (step (machineAt burstTc [0x40] [] [])) =
      some [.poll (flagsOf .stm32f3 0x40), .writeCtrl ⟨0x50, .read, 3, .autoEnd⟩, .ctrlRead 0x000100D0, .start] ∧
    statusOf (step (machineAt burstTc [0x40] [] [])) = some 0x00000052 := by decide
theorem test_stopComplete_byteRead :
    statusOf (step (machineAt { readByte with st := .awaitStop, idx := 1, data := 0x68 } [0x20] [] [])) = some 0x00016866 := by
  decide
theorem test_stopAbort_ignores_nack : statusOf (step (machineAt (burstStop .abort) [0x30] [] [])) = some 0x00040087 := by decide

/-! ### The host's port -/

theorem test_host_word_little_endian :
    readsOf (step ((machineAt Engine.reset [] [] buffer).setInputs [.read 0x20000000 .word])) = some [0x00CCBBAA] := by decide
theorem test_call_assembles : assembleAll Params.standard (Call.expand (.burstWrite 0x50 0x10 3 0x20000000)) =
    some [.write 0x50000004 .word 3, .write 0x50000008 .word 0x20000000, .write 0x50000000 .word 0x00105003, .wait] := by
  decide
/-- R87 on the STATUS words of R190's example and of V-L1-3. -/
theorem test_call_results : Call.result 0x00016866 (.byteRead 0x68 0x75) = some (.byte 0x68) ∧
    Call.result 0x00000087 (.byteRead 0x68 0x75) = some .aborted ∧
    Call.result 0x00030046 (.burstRead 0x50 0x10 3 0x20000100) = some .ok := by decide
/-- The vectors of 95_test_vectors.md 2.7: a write of 0x0075_6801 in AWAIT_BYTE_READY is refused by the model. -/
theorem test_command_while_busy :
    (step (facing (.write 0x50000000 .word 0x00756801) (burstOut 2)) = .refused .commandWhileBusy) := by rfl
theorem test_assembler_refuses_slave : assemble Params.standard (.cmd .byteRead 128 0) = none := by decide

/-! ### Witnesses: for each statement with hypotheses, a state and operands that meet them, one for each clause -/

/-- A quiescent state with LEN = 3, BUF = 0x20000000 and these answers. -/
def ready (status rx : List Word) : State := ((machineAt Engine.reset status rx buffer).setLen 3).setBuf 0x20000000

theorem witness_DecodeOfEncodeIsIdentity :
    (Binding.stm32f3.WellFormed ∧ (Instr.triggerStop 0x020440A0).wellFormed .stm32f3 = true) ∧
    (shifted.WellFormed ∧ (Instr.triggerStop 0x820400A0).wellFormed shifted = true) :=
  ⟨⟨wellFormed_stm32f3, by decide⟩, ⟨shifted_wellFormed, by decide⟩⟩

theorem witness_AccessRowsDoNotOverlap : shifted.WellFormed := shifted_wellFormed

theorem witness_CommandDecodesByItsFields :
    (0x80000001 : Word) &&& 0xFF0080F0 ≠ 0 ∧ (0x00008001 : Word) &&& 0xFF0080F0 ≠ 0 ∧ (0x00000011 : Word) &&& 0xFF0080F0 ≠ 0 ∧
    ((0x00FF7F04 : Word) &&& 0xF ≠ 1 ∧ (0x00FF7F04 : Word) &&& 0xF ≠ 2 ∧ (0x00FF7F04 : Word) &&& 0xF ≠ 3) ∧
    ((0x00FF7F01 : Word) &&& 0xFF0080F0 = 0 ∧ (0x00FF7F01 : Word) &&& 0xF = 1) ∧
    ((0x00105002 : Word) &&& 0xFF0080F0 = 0 ∧ (0x00105002 : Word) &&& 0xF = 2) ∧
    ((0x00007F03 : Word) &&& 0xFF0080F0 = 0 ∧ (0x00007F03 : Word) &&& 0xF = 3) := by decide

theorem witness_DecodedCommandEncodesBack : decodeCmd 0x00FF7F01 = .ok (.byteRead 0x7F 0xFF) := by
  rw [show decodeCmd 0x00FF7F01 = .ok (.byteRead 0x7F 0xFF) from rfl]

theorem witness_StepRunsDecodedInstruction :
    (0x12800000075 < 2 ^ 41 ∧ decodeTableWord 48 0x12800000075 = some (.txWrite 0x75) ∧
      (Instr.txWrite 0x75).isCommand = false ∧ State.reset.params.regif = .stm32f3) ∧
    (0x00756801 < 2 ^ 41 ∧ decodeTableWord 32 0x00756801 = some (.byteRead 0x68 0x75) ∧
      bufferLimit (.byteRead 0x68 0x75) = none) ∧
    (0x00105003 < 2 ^ 41 ∧ decodeTableWord 32 0x00105003 = some (.burstWrite 0x50 0x10) ∧
      (Instr.burstWrite 0x50 0x10).isCommand = true ∧ (ready [] []).eng.st.busy = false) ∧ (ready [] []).bufferAdmitted := by
  unfold State.bufferAdmitted
  decide

theorem witness_InputRunsDecodedInstruction :
    ((facing (.write Params.standard.engineBase .word 0x00756801) Engine.reset).inputs =
      [.write Params.standard.engineBase .word 0x00756801] ∧ decodeCmd 0x00756801 = .ok (.byteRead 0x68 0x75) ∧
      Engine.reset.st.busy = false ∧ bufferLimit (.byteRead 0x68 0x75) = none) ∧
    ((facing (.access 0x11C00000010) Engine.reset).inputs = [.access 0x11C00000010] ∧
      decodeKey Params.standard.regif 0x11C00000010 = .ok .clearNack) := ⟨⟨rfl, rfl, rfl, rfl⟩, ⟨rfl, rfl⟩⟩

theorem witness_WriteCtrlProgramsDescriptor : State.reset.params.regif.WellFormed := wellFormed_stm32f3

theorem witness_ClearsTouchOneFlag : State.reset.params.regif.WellFormed := wellFormed_stm32f3

theorem witness_TriggersAreReadThenWrite : exec .ctrlRead State.reset = .next (ctrlRead State.reset) := rfl

theorem witness_ByteReadIsAccepted : State.reset.eng.st.busy = false ∧ (machineAt
    { Engine.reset with st := .aborted } [] [] []).eng.st.busy = false := by decide

/-- n = -2^31, 0, 1, 255, 256 and 2^31 - 1 for BURST_READ; 254 and 255 for BURST_WRITE. -/
theorem witness_BurstCountsAreChecked : State.reset.eng.st.busy = false ∧
    (State.reset.setLen 0x80000000).len.toInt ≤ 0 ∧ (State.reset.setLen 0).len.toInt ≤ 0 ∧
    (1 ≤ (State.reset.setLen 1).len.toInt ∧ (State.reset.setLen 1).len.toInt ≤ 254) ∧
    (1 ≤ (State.reset.setLen 255).len.toInt ∧ (State.reset.setLen 255).len.toInt ≤ 255) ∧
    (255 < (State.reset.setLen 256).len.toInt ∧ 1 ≤ (State.reset.setLen 256).len.toInt) ∧
    (255 < (State.reset.setLen 0x7FFFFFFF).len.toInt ∧ 1 ≤ (State.reset.setLen 0x7FFFFFFF).len.toInt) ∧
    (254 < (State.reset.setLen 255).len.toInt ∧ 1 ≤ (State.reset.setLen 255).len.toInt) ∧
    (1 ≤ (State.reset.setLen 254).len.toInt ∧ (State.reset.setLen 254).len.toInt ≤ 254) := by decide

theorem witness_IllegalWordEndsInIllegal :
    (facing (.write 0x50000000 .word 0x00000004) Engine.reset).inputs =
      [.write (facing (.write 0x50000000 .word 0x00000004) Engine.reset).params.engineBase .word 0x00000004] ∧
    (facing (.write 0x50000000 .word 0x00000004) Engine.reset).eng.st.busy = false ∧
    ((0x00000004 : Word) &&& 0xF ≠ 1 ∧ (0x00000004 : Word) &&& 0xF ≠ 2 ∧ (0x00000004 : Word) &&& 0xF ≠ 3) ∧
    (0x00000011 : Word) &&& 0xFF0080F0 ≠ 0 := by decide

theorem witness_CommandWhileBusyIsIgnored :
    (facing (.write 0x50000000 .word 0x00756801) (burstOut 2)).eng.st.busy = true ∧
    (facing (.write 0x50000000 .word 0x00756801) (burstOut 2)).inputs =
      [.write (facing (.write 0x50000000 .word 0x00756801) (burstOut 2)).params.engineBase .word 0x00756801] := by decide

/-- Three bytes from 2^32 - 2 wrap and from 2^32 - 3 do not; three from 0x4FFFFFFE end at the first command register. -/
theorem witness_RefusedBuffersAreRefused :
    decodeCmd 0x00105002 = .ok (.burstRead 0x50 0x10) ∧ decodeCmd 0x00105003 = .ok (.burstWrite 0x50 0x10) ∧
    (1 ≤ (ready [] []).len.toInt ∧ (ready [] []).len.toInt ≤ 254) ∧
    2 ^ 32 < (0xFFFFFFFE : Word).toNat % 2 ^ 32 + (ready [] []).len.toNat ∧
    ((0xFFFFFFFD : Word).toNat % 2 ^ 32 + (ready [] []).len.toNat ≤ 2 ^ 32) ∧
    (2 < (ready [] []).len.toNat ∧ inRegisters Params.standard (((0x4FFFFFFE : Word).toNat + 2) % 2 ^ 32) = true ∧
      inRegisters Params.standard (((0x4FFFFFFD : Word).toNat + 2) % 2 ^ 32) = false) :=
  ⟨rfl, rfl, by decide⟩

theorem witness_EveryInstructionCompletes : (Instr.burstRead 0x50 0x10).isCommand = true ∧ State.reset.eng.st.busy = false ∧
    Instr.rxRead.isCommand = false := by decide

theorem witness_PhaseDescriptors : readGuard.op = .byteRead ∧
    (burstTc.op = .burstRead ∧ burstTc.Admitted) ∧
    ({ burstTc with n := 255 } : Engine).Admitted ∧ ({ burstTc with n := 1 } : Engine).Admitted ∧
    ((burstOut 0).op = .burstWrite ∧ (burstOut 0).Admitted) ∧
    ({ burstOut 0 with n := 254 } : Engine).Admitted ∧ ({ burstOut 0 with n := 1 } : Engine).Admitted := by
  simp only [Engine.Admitted, burstTc, burstOut]
  decide

theorem witness_BusGuardStep :
    ((machineAt readGuard [0x8000] [] []).inputs = [] ∧ (machineAt readGuard [0x8000] [] []).eng.st = .awaitBusFree ∧
      (polled (machineAt readGuard [0x8000] [] [])).busy = true) ∧
    ((polled (machineAt readGuard [0x7FFF] [] [])).busy = false ∧
      phase1 (machineAt readGuard [0x7FFF] [] []).eng = some ⟨0x68, .write, 1, .softwareEnd⟩) := by decide

theorem witness_AfterByteMoves :
    (({ readGuard with cur := ⟨.write, 1, .softwareEnd⟩ } : Engine).idx + 1 = 1) ∧
    ((burstIn 2).idx + 1 = (burstIn 2).cur.count ∧ (burstIn 2).cur.em = .autoEnd) ∧
    (burstIn 0).idx + 1 ≠ (burstIn 0).cur.count := by decide

/-- The hypotheses of `Obligations.WriteByteStep` but its choice. -/
def WritesByte (s : State) : Prop :=
  s.inputs = [] ∧ (s.eng.st = .awaitAddrAck ∨ s.eng.st = .awaitByteReady) ∧ s.eng.cur.dir = .write

/-- Both priorities: `{TXIS, NACKF}` is NACK for one and READY for the other. -/
theorem witness_WriteByteStep :
    (WritesByte (machineAt (burstOut 2) [0x12] [] buffer) ∧ select .nackFirst (flagsOf .stm32f3 0x12).nackf (flagsOf .stm32f3 0x12).txis = .nack ∧
      select .readyFirst (flagsOf .stm32f3 0x12).nackf (flagsOf .stm32f3 0x12).txis = .ready) ∧
    (WritesByte (machineAt (burstOut 2) [0x20] [] buffer) ∧ select .nackFirst (flagsOf .stm32f3 0x20).nackf (flagsOf .stm32f3 0x20).txis = .none) ∧
    (WritesByte (machineAt { burstOut 0 with st := .awaitAddrAck } [0x02] [] buffer) ∧ (burstOut 0).idx = 0 ∧
      select .nackFirst (flagsOf .stm32f3 0x02).nackf (flagsOf .stm32f3 0x02).txis = .ready) ∧
    ((burstOut 1).idx ≠ 0 ∧ inRegisters Params.standard (bufferAddr Params.standard (burstOut 1) 0) = false) ∧
    (WritesByte (machineAt { burstOut 1 with base := 0x5000000F } [0x02] [] []) ∧
      inRegisters Params.standard (bufferAddr Params.standard { burstOut 1 with base := 0x5000000F } 0) = true ∧
      inRegisters Params.standard (bufferAddr Params.standard { burstOut 1 with base := 0x50000010 } 0) = false) := by
  simp only [WritesByte]
  decide

/-- The hypotheses of `Obligations.ReadByteStep` but its choice. -/
def ReadsByte (s : State) : Prop :=
  s.inputs = [] ∧ (s.eng.st = .awaitAddrAck ∨ s.eng.st = .awaitByteReady) ∧ s.eng.cur.dir = .read ∧ Memory.wf s.mem

theorem witness_ReadByteStep :
    (ReadsByte (machineAt (burstIn 1) [0x14] [] buffer) ∧ select .nackFirst (flagsOf .stm32f3 0x14).nackf (flagsOf .stm32f3 0x14).rxne = .nack) ∧
    (ReadsByte (machineAt (burstIn 1) [0x02] [] buffer) ∧ select .nackFirst (flagsOf .stm32f3 0x02).nackf (flagsOf .stm32f3 0x02).rxne = .none) ∧
    (ReadsByte (machineAt readByte [0x04] [0x68] []) ∧ readByte.op = .byteRead ∧
      select .nackFirst (flagsOf .stm32f3 0x04).nackf (flagsOf .stm32f3 0x04).rxne = .ready) ∧
    ((burstIn 1).op ≠ .byteRead ∧ inRegisters Params.standard (bufferAddr Params.standard (burstIn 1) 1) = false) ∧
    (ReadsByte (machineAt { burstIn 1 with base := 0x400053FF } [0x04] [] []) ∧
      inRegisters Params.standard (bufferAddr Params.standard { burstIn 1 with base := 0x400053FF } 1) = true ∧
      inRegisters Params.standard (bufferAddr Params.standard { burstIn 1 with base := 0x400053FF } 0) = false) := by
  simp only [ReadsByte]
  decide

theorem witness_TransferCompleteStep :
    ((machineAt burstTc [0x50] [] []).inputs = [] ∧ burstTc.st = .awaitTransferComplete ∧
      select .nackFirst (flagsOf .stm32f3 0x50).nackf (flagsOf .stm32f3 0x50).tc = .nack) ∧
    select .nackFirst (flagsOf .stm32f3 0x20).nackf (flagsOf .stm32f3 0x20).tc = .none ∧
    (select .nackFirst (flagsOf .stm32f3 0x40).nackf (flagsOf .stm32f3 0x40).tc = .ready ∧ burstTc.phase = .first ∧
      (burstTc.op = .byteRead ∨ burstTc.op = .burstRead) ∧ phase2 burstTc = some ⟨0x50, .read, 3, .autoEnd⟩) ∧
    ¬ (({ burstTc with op := .burstWrite } : Engine).phase = .first ∧
      (({ burstTc with op := .burstWrite } : Engine).op = .byteRead ∨
        ({ burstTc with op := .burstWrite } : Engine).op = .burstRead)) := by decide

theorem witness_StopCompleteStep :
    ((machineAt (burstStop .complete) [0x30] [] []).inputs = [] ∧ (burstStop .complete).st = .awaitStop ∧
      (burstStop .complete).stopCause = .complete ∧ select .nackFirst (flagsOf .stm32f3 0x30).nackf (flagsOf .stm32f3 0x30).stopf = .nack) ∧
    select .nackFirst (flagsOf .stm32f3 0x40).nackf (flagsOf .stm32f3 0x40).stopf = .none ∧
    (select .nackFirst (flagsOf .stm32f3 0x20).nackf (flagsOf .stm32f3 0x20).stopf = .ready ∧
      ({ readByte with st := .awaitStop, idx := 1 } : Engine).op = .byteRead) ∧
    (burstStop .complete).op ≠ .byteRead := by decide

theorem witness_StopAbortStep :
    ((machineAt (burstStop .abort) [0x10] [] []).inputs = [] ∧ (burstStop .abort).st = .awaitStop ∧
      (burstStop .abort).stopCause = .abort ∧ (polled (machineAt (burstStop .abort) [0x10] [] [])).stopf = false) ∧
    (polled (machineAt (burstStop .abort) [0x30] [] [])).stopf = true := by decide

theorem witness_NackTakesAbortEntry :
    ∀ e ∈ [burstTc, burstIn 0, burstOut 2, burstStop .complete], e.nackTested = true ∧
      (machineAt e [0x10] [] []).inputs = [] ∧
      select .nackFirst (polled (machineAt e [0x10] [] [])).nackf (e.awaited (polled (machineAt e [0x10] [] []))) = .nack := by
  decide

theorem witness_QuiescentEngineTakesNoStep : State.reset.inputs = [] ∧ State.reset.eng.st.busy = false := by decide

theorem witness_BusyStepPollsOnce : (machineAt (burstOut 2) [0x02] [] buffer).inputs = [] ∧ (burstOut 2).st.busy = true ∧
    ∃ t, step (machineAt (burstOut 2) [0x02] [] buffer) = .next t := ⟨by decide, by decide, _, rfl⟩

theorem witness_StopRequestedOnlyOnNack : (machineAt (burstOut 2) [0x10] [] buffer).inputs = [] ∧
    ∃ t, step (machineAt (burstOut 2) [0x10] [] buffer) = .next t := ⟨by decide, _, rfl⟩

theorem fits_burst : ∀ e ∈ [burstOut 2, burstStop .complete, burstStop .abort],
    e.base.toNat + e.n.toNat ≤ 2 ^ Params.standard.addrW ∧
      ∀ i, i < e.n.toNat → inRegisters Params.standard (bufferAddr Params.standard e i) = false := by decide

/-- The states the witnesses use meet the invariant. -/
theorem inv_burst : (machineAt (burstOut 2) [0x02] [] buffer).Inv ∧ (machineAt (burstStop .complete) [0x20] [] buffer).Inv ∧
    (machineAt (burstStop .abort) [0x20] [] buffer).Inv := by
  have fits := fun e he (_ : e.st.busy = true) (_ : e.op = .burstRead ∨ e.op = .burstWrite) => fits_burst e he
  have engines : (burstOut 2).Inv ∧ (burstStop .complete).Inv ∧ (burstStop .abort).Inv := by
    simp only [Engine.Inv, Engine.StateInv, Engine.Open, Engine.Admitted, Engine.phaseDescriptor, burstStop, burstOut]
    decide
  exact ⟨⟨engines.1, by decide, by decide, by decide, fits (burstOut 2) (by simp)⟩,
    ⟨engines.2.1, by decide, by decide, by decide, fits (burstStop .complete) (by simp)⟩,
    ⟨engines.2.2, by decide, by decide, by decide, fits (burstStop .abort) (by simp)⟩⟩

theorem witness_OperationEndsByClearingStop :
    ∀ c ∈ [StopCause.complete, .abort], (machineAt (burstStop c) [0x20] [] buffer).Inv ∧
      (machineAt (burstStop c) [0x20] [] buffer).inputs = [] ∧ (burstStop c).st.busy = true ∧
      ∃ t, step (machineAt (burstStop c) [0x20] [] buffer) = .next t ∧ t.eng.st.busy = false := by
  intro c _
  cases c
  · exact ⟨inv_burst.2.1, by decide, by decide, _, rfl, by decide⟩
  · exact ⟨inv_burst.2.2, by decide, by decide, _, rfl, by decide⟩

theorem witness_EngineStopsOnlyAtRegisters : (machineAt (burstOut 2) [0x02] [] buffer).Inv ∧
    (machineAt (burstOut 2) [0x02] [] buffer).eng.Inv ∧ (machineAt (burstOut 2) [0x02] [] buffer).inputs = [] ∧
    (burstOut 2).op = .burstWrite ∧
    ∀ i, i < (burstOut 2).n.toNat → inRegisters Params.standard (bufferAddr Params.standard (burstOut 2) i) = false :=
  ⟨inv_burst.1, inv_burst.1.1, by decide, by decide, by decide⟩

theorem witness_BusyEngineKeepsOperands :
    (facing (.write 0x50000004 .word 7) (burstOut 2)).eng.st.busy = true ∧
    (facing (.write 0x50000004 .word 7) (burstOut 2)).inputs.head? ≠ some .reset ∧
    ∃ t, step (facing (.write 0x50000004 .word 7) (burstOut 2)) = .next t := ⟨by decide, by decide, _, rfl⟩

theorem witness_EngineLeavesConfiguration : (machineAt burstTc [0x40] [] []).inputs = [] ∧
    ∃ t, step (machineAt burstTc [0x40] [] []) = .next t := ⟨by decide, _, rfl⟩

/-- `{TXIS, STOPF}` and `{TXIS, BUSY}` agree on what a write wait reads. -/
theorem witness_UnreadFlagsHaveNoEffect : (machineAt (burstOut 2) [0x22] [] buffer).inputs = [] ∧
    (machineAt (burstOut 2) [0x22] [] buffer).env.status = [0x22] ∧
    (burstOut 2).awaited (flagsOf .stm32f3 0x22) = (burstOut 2).awaited (flagsOf .stm32f3 0x8002) ∧
    (flagsOf .stm32f3 0x22).nackf = (flagsOf .stm32f3 0x8002).nackf ∧ (burstOut 2).st.busy = true ∧
    ∃ t, step (machineAt (burstOut 2) [0x22] [] buffer) = .next t :=
  ⟨by decide, by decide, by decide, by decide, by decide, _, rfl⟩

theorem witness_ReceivedByteSteersNothing : (machineAt (burstIn 1) [0x04] [0x11] buffer).inputs = [] ∧
    (machineAt (burstIn 1) [0x04] [0x11] buffer).env.rx = [0x11] ∧ Memory.wf (machineAt (burstIn 1) [0x04] [0x11] buffer).mem ∧
    ∃ t, step (machineAt (burstIn 1) [0x04] [0x11] buffer) = .next t := ⟨by decide, by decide, by decide, _, rfl⟩

theorem witness_GuardIsFourAccesses : (machineAt readGuard [0] [] []).params.regif.WellFormed ∧
    (machineAt readGuard [0] [] []).inputs = [] ∧
    (machineAt readGuard [0] [] []).eng.st = .awaitBusFree ∧ (polled (machineAt readGuard [0] [] [])).busy = false ∧
    phase1 readGuard = some ⟨0x68, .write, 1, .softwareEnd⟩ ∧
    ∃ t u1 u2 u3 u4, step (machineAt readGuard [0] [] []) = .next t ∧
      exec .pollStatus (machineAt readGuard [0] [] []) = .next u1 ∧
      exec (.writeCtrl (ctrlWord .stm32f3 ⟨0x68, .write, 1, .softwareEnd⟩)) u1 = .next u2 ∧ exec .ctrlRead u2 = .next u3 ∧
      exec (.triggerStart (u3.ctl.cr2 ||| startBit .stm32f3)) u3 = .next u4 :=
  ⟨wellFormed_stm32f3, by decide, by decide, by decide, by decide, _, _, _, _, _, rfl, rfl, rfl, rfl, rfl⟩

/-- The script ACKS of 95_test_vectors.md for a Read-register(1). -/
theorem witness_ByteReadDeliversByte : State.reset.eng.st.busy = false ∧
    Shows .stm32f3 [0x00, 0x02, 0x40, 0x04, 0x20] (readAcks 1) ∧
    (machineAt Engine.reset [0x00, 0x02, 0x40, 0x04, 0x20] [0x68] []).env.status = [0x00, 0x02, 0x40, 0x04, 0x20] ++ [] ∧
    (machineAt Engine.reset [0x00, 0x02, 0x40, 0x04, 0x20] [0x68] []).env.rx = [0x68] ∧
    ∃ t, exec (.byteRead 0x68 0x75) (machineAt Engine.reset [0x00, 0x02, 0x40, 0x04, 0x20] [0x68] []) = .next t := by
  refine ⟨by decide, ?_, by decide, by decide, _, rfl⟩
  simp only [Shows, readAcks]
  decide

theorem witness_BurstReadFillsBuffer : Shows .stm32f3 [0x00, 0x02, 0x40, 0x04, 0x04, 0x04, 0x20] (readAcks 3) ∧
    (1 ≤ (ready [] []).len.toInt ∧ (ready [] []).len.toInt ≤ 255 ∧ Memory.wf (ready [] []).mem ∧ (ready [] []).len.toNat = 3) ∧
    (ready [] []).len.toNat ≤ 2 ^ (ready [] []).params.addrW ∧ (ready [] []).inputs = [] ∧ (ready [] []).eng.st.busy = false ∧
    ∃ t, exec (.burstRead 0x50 0x10) (ready [0x00, 0x02, 0x40, 0x04, 0x04, 0x04, 0x20] [0x11, 0x22, 0x33]) = .next t ∧
      BufferClear Params.standard t.eng 3 := by
  refine ⟨?_, by decide, by decide, by decide, by decide, _, rfl, ?_⟩
  · simp only [Shows, readAcks]
    decide
  · unfold BufferClear
    decide

theorem witness_BurstWriteSendsBuffer : Shows .stm32f3 [0x00, 0x02, 0x02, 0x02, 0x02, 0x20] (writeAcks 3) ∧
    (1 ≤ (ready [] []).len.toInt ∧ (ready [] []).len.toInt ≤ 254) ∧ (ready [] []).inputs = [] ∧
    (ready [] []).eng.st.busy = false ∧
    ∃ t, exec (.burstWrite 0x50 0x10) (ready [0x00, 0x02, 0x02, 0x02, 0x02, 0x20] []) = .next t ∧
      BufferClear Params.standard t.eng 3 := by
  refine ⟨?_, by decide, by decide, by decide, _, rfl, ?_⟩
  · simp only [Shows, writeAcks]
    decide
  · unfold BufferClear
    decide

theorem witness_NackAbortsOperation : (machineAt (burstOut 2) [0x12, 0x10, 0x00, 0x20] [] buffer).inputs = [] ∧
    (burstOut 2).nackTested = true ∧
    (machineAt (burstOut 2) [0x12, 0x10, 0x00, 0x20] [] buffer).env.status = 0x12 :: ([0x10, 0x00] ++ 0x20 :: []) ∧
    select .nackFirst (flagsOf .stm32f3 0x12).nackf ((burstOut 2).awaited (flagsOf .stm32f3 0x12)) = .nack ∧
    (∀ w ∈ [(0x10 : Word), 0x00], (flagsOf .stm32f3 w).stopf = false) ∧ (flagsOf .stm32f3 0x20).stopf = true :=
  ⟨rfl, by decide, rfl, by decide, by simp [flagsOf, Binding.stm32f3], by decide⟩

theorem witness_WaitsAreUnbounded : (machineAt (burstOut 2) [0x20, 0x8004] [] buffer).inputs = [] ∧
    (burstOut 2).st.busy = true ∧
    (machineAt (burstOut 2) [0x20, 0x8004] [] buffer).env.status = [0x20, 0x8004] ++ [] ∧
    (∀ w ∈ [(0x20 : Word), 0x8004], (burstOut 2).awaited (flagsOf .stm32f3 w) = false ∧
      ((burstOut 2).nackTested = true → (flagsOf .stm32f3 w).nackf = false)) :=
  ⟨rfl, by decide, rfl, by simp [flagsOf, Binding.stm32f3, Engine.awaited, burstOut]⟩

theorem witness_StepKeepsInvariant : (machineAt (burstOut 2) [0x02] [] buffer).Inv ∧
    ∃ t, step (machineAt (burstOut 2) [0x02] [] buffer) = .next t := ⟨inv_burst.1, _, rfl⟩

theorem witness_ResetClearsEngine : (facing .reset (burstOut 2)).inputs = [.reset] := by decide

theorem witness_MemoryWriteChangesOneByte : Memory.wf buffer := by decide

theorem witness_StatusIsAViewOfTheEngine :
    (facing (.write 0x5000000C .word 1) (burstOut 2)).inputs =
      [.write ((facing (.write 0x5000000C .word 1) (burstOut 2)).params.engineBase + 0xC) .word 1] ∧
    (facing (.read 0x5000000C .word) (burstOut 2)).inputs =
      [.read ((facing (.read 0x5000000C .word) (burstOut 2)).params.engineBase + 0xC) .word] := by decide

theorem witness_CommandRegistersAreStorage :
    (facing (.write 0x50000004 .word 3) (burstOut 2)).inputs = [.write (Params.standard.engineBase + 0x4) .word 3] ∧
    (facing (.write 0x50000008 .word 3) (burstOut 2)).inputs = [.write (Params.standard.engineBase + 0x8) .word 3] ∧
    (facing (.read 0x50000000 .word) (burstOut 2)).inputs = [.read Params.standard.engineBase .word] ∧
    (facing (.read 0x50000004 .word) (burstOut 2)).inputs = [.read (Params.standard.engineBase + 0x4) .word] ∧
    (facing (.read 0x50000008 .word) (burstOut 2)).inputs = [.read (Params.standard.engineBase + 0x8) .word] := by decide

/-- A byte access at offset 0, and a word access at offset 15. -/
theorem witness_NarrowRegisterAccessIsRefused :
    ((facing (.write 0x50000000 .byte 1) Engine.reset).inputs = [.write (Params.standard.engineBase + BitVec.ofNat 32 0) .byte 1] ∧
      Size.byte ≠ .word) ∧
    ((facing (.read 0x5000000F .word) Engine.reset).inputs = [.read (Params.standard.engineBase + BitVec.ofNat 32 15) .word] ∧
      15 % 4 ≠ 0) := by decide

/-- A byte access to the last byte of the buffer, and a word access whose last byte is the buffer's first. -/
theorem witness_BorrowedBufferIsRefused : (burstOut 2).st.busy = true ∧ (burstOut 2).op = .burstWrite ∧
    (2 < (burstOut 2).n.toNat ∧ (burstOut 2).n.toNat ≤ 2 ^ Params.standard.addrW) ∧
    (0 < Size.byte.bytes ∧ ((0x20000002 : Word) + BitVec.ofNat 32 0).toNat = bufferAddr Params.standard (burstOut 2) 2 ∧
      (facing (.read 0x20000002 .byte) (burstOut 2)).inputs = [.read 0x20000002 .byte]) ∧
    (3 < Size.word.bytes ∧ ((0x1FFFFFFD : Word) + BitVec.ofNat 32 3).toNat = bufferAddr Params.standard (burstOut 2) 0 ∧
      (facing (.write 0x1FFFFFFD .word 1) (burstOut 2)).inputs = [.write 0x1FFFFFFD .word 1]) ∧
    (∀ j, j < 4 → ((0x1FFFFFFD : Word) + BitVec.ofNat 32 j).toNat < 2 ^ Params.standard.addrW ∧
      inRegisters Params.standard ((0x1FFFFFFD : Word) + BitVec.ofNat 32 j).toNat = false) := by decide

theorem windows_disjoint : WindowsDisjoint Params.standard := by
  intro a h
  have h1 : (a - 0x50000000#32).toNat < 16 := of_decide_eq_true h.1
  have h2 : (a - 0x40005400#32).toNat < 44 := of_decide_eq_true h.2
  bv_omega

theorem witness_InitialisationReadiesController :
    (State.reset.setInputs (initialise Params.standard)).inputs = initialise Params.standard ∧
    State.reset.eng.st.busy = false ∧ Params.standard.regif.WellFormed ∧ WindowsDisjoint Params.standard ∧
    State.reset.ctl.timeoutr = 0 := ⟨rfl, by decide, wellFormed_stm32f3, windows_disjoint, by decide⟩

theorem witness_ControllerResetRestoresRegisters : (facing .resetController (burstOut 2)).inputs = [.resetController] := by
  decide

theorem witness_ControllerIsOwnedWhileBusy :
    (facing (.write 0x40005428 .word 1) (burstOut 2)).eng.st.busy = true ∧
    (0x28 : Byte).toNat + 4 ≤ Params.standard.regif.window ∧ WindowsDisjoint Params.standard ∧
    (facing (.write 0x40005428 .word 1) (burstOut 2)).inputs =
      [.write (Params.standard.regBase + (0x28 : Byte).setWidth 32) .word 1] ∧
    (facing (.read 0x40005400 .word) (burstOut 2)).inputs =
      [.read (Params.standard.regBase + (0x00 : Byte).setWidth 32) .word] :=
  ⟨by decide, by decide, windows_disjoint, by decide, by decide⟩

/-- The last operands in range and the first out of it, for slave, address, n and the buffer. -/
theorem witness_CallsAssembleToAccesses :
    (127 < 128 ∧ 255 < 256 ∧ (-2 ^ 31 ≤ (-2 ^ 31 : Int) ∧ (-2 ^ 31 : Int) < 2 ^ 31) ∧
      2 ^ 32 - 1 < 2 ^ Params.standard.addrW) ∧
    ¬ (128 < 128 ∧ 255 < 256) ∧ ¬ (-2 ^ 31 ≤ (2 ^ 31 : Int) ∧ (2 ^ 31 : Int) < 2 ^ 31) ∧
    ¬ 2 ^ 32 < 2 ^ Params.standard.addrW := by decide

theorem witness_CallResultsFollowState : ({ readByte with st := .done } : Engine).st = .done ∧
    ({ readByte with st := .aborted } : Engine).st = .aborted := by decide

theorem witness_ResultIsTakenWhenValid :
    (facing .takeData { readByte with st := .done, dataValid := true }).inputs = [.takeData] ∧
    (facing .takeData { readByte with st := .done, dataValid := true }).eng.dataValid = true ∧
    (facing .takeData Engine.reset).eng.dataValid = false := by decide

theorem witness_WaitReadsStatusWhenQuiescent :
    ((facing .tick (burstStop .abort)).inputs = [.tick] ∧
      ∃ t, step ((facing .tick (burstStop .abort)).setInputs []) = .next t) ∧
    ((facing .wait Engine.reset).inputs = [.wait] ∧ (facing .wait Engine.reset).eng.st.busy = false) ∧
    ((facing .wait (burstStop .abort)).inputs = [.wait] ∧ (facing .wait (burstStop .abort)).eng.st.busy = true ∧
      ∃ t, step ((facing .wait (burstStop .abort)).setInputs []) = .next t) := by
  have next : ∀ i, ∃ t, step ((facing i (burstStop .abort)).setInputs []) = .next t := fun i =>
    ⟨stopAbortStep ((facing i (burstStop .abort)).setInputs []), rfl⟩
  exact ⟨⟨by decide, next _⟩, ⟨by decide, by decide⟩, ⟨by decide, by decide, next _⟩⟩

end Sys2Proof.Tests
end

section
/-! PROOFS. What a step never changes, and what a step can be, said once for the statements about every step. -/

namespace Sys2Proof.Machine

/-! ### What the engine's own step leaves alone -/

/-- What no action of the engine writes: the parameters, the command registers, the answers to the host, the operands of
the operation (10_state.md R20, R32), and the configuration registers of the controller (R38, R47). -/
structure EngineStepFrame (s t : State) : Prop where
  params : t.params = s.params
  cmd : t.cmd = s.cmd
  len : t.len = s.len
  buf : t.buf = s.buf
  hostReads : t.hostReads = s.hostReads
  op : t.eng.op = s.eng.op
  sadd : t.eng.sadd = s.eng.sadd
  raddr : t.eng.raddr = s.eng.raddr
  n : t.eng.n = s.eng.n
  base : t.eng.base = s.eng.base
  cr1 : t.ctl.cr1 = s.ctl.cr1
  timingr : t.ctl.timingr = s.ctl.timingr
  oar1 : t.ctl.oar1 = s.ctl.oar1
  oar2 : t.ctl.oar2 = s.ctl.oar2
  timeoutr : t.ctl.timeoutr = s.ctl.timeoutr
  pecr : t.ctl.pecr = s.ctl.pecr

theorem transferComplete_frame (s : State) : EngineStepFrame s (transferComplete s) := by
  rcases transferComplete_cases s with ⟨d, -, -, ht⟩ | ht <;> rw [ht] <;> constructor <;> simp

theorem stopComplete_frame (s : State) : EngineStepFrame s (stopComplete s) := by
  constructor <;> simp [stopComplete]

theorem sendByte_frame {s t : State} (h : sendByte s = .next t) : EngineStepFrame s t := by
  rcases sendByte_cases h with ⟨-, rfl⟩ | ⟨a, -, -, -, rfl⟩ <;> constructor <;> simp

theorem receiveByte_frame {s t : State} (h : receiveByte s = .next t) : EngineStepFrame s t := by
  rcases receiveByte_cases h with ⟨-, rfl⟩ | ⟨a, -, -, -, rfl⟩ <;> constructor <;> simp

theorem EngineStepFrame.after_poll {s t : State} (h : EngineStepFrame (pollStatus s) t) : EngineStepFrame s t := by
  cases h; constructor <;> simp_all

theorem engineStep_frame {s t : State} (h : engineStep s = .next t) : EngineStepFrame s t := by
  rcases engineStep_cases h with ⟨-, rfl⟩ | ⟨-, rfl⟩ | ⟨-, rfl⟩ | ⟨-, -, d, -, rfl⟩ | ⟨-, -, -, sent⟩ |
    ⟨-, -, -, taken⟩ | ⟨-, -, rfl⟩ | ⟨-, -, -, rfl⟩ | ⟨-, -, -, rfl⟩
  · constructor <;> rfl
  · constructor <;> simp
  · constructor <;> simp
  · constructor <;> simp
  · exact (sendByte_frame sent).after_poll
  · exact (receiveByte_frame taken).after_poll
  · exact (transferComplete_frame _).after_poll
  · exact (stopComplete_frame _).after_poll
  · constructor <;> simp

/-- A quiescent engine takes no step (41_transaction_engine.md R140). -/
theorem engineStep_quiescent {s : State} (h : s.eng.st.busy = false) : engineStep s = .next s := by
  unfold engineStep
  cases st : s.eng.st <;> simp_all [EngState.busy]

/-! ### What a step can be -/

/-- A register-interface access by itself moves no parameter, no engine register and no byte of memory
(40_bus_guard_and_primitives.md R120, R125 to R131). -/
theorem exec_access_keeps {i : Instr} {s t : State} (hi : i.isCommand = false) (h : exec i s = .next t) :
    t.params = s.params ∧ t.eng = s.eng ∧ t.mem = s.mem := by
  cases i with
  | byteRead sadd raddr => cases hi
  | burstRead sadd raddr => cases hi
  | burstWrite sadd raddr => cases hi
  | pollStatus => cases h; simp
  | ctrlRead => cases h; simp
  | writeCtrl value => cases h; simp
  | triggerStart value => cases h; simp
  | triggerStop value => cases h; simp
  | txWrite b => cases h; simp
  | rxRead => cases h; simp
  | clearNack => cases h; simp
  | clearStop => cases h; simp

/-- What one step does to the parameters, the engine and memory. -/
inductive StepEffect (s t : State) : Prop
  /-- The engine steps. -/
  | engine (l : List Input) (steps : engineStep (s.setInputs l) = .next t)
  /-- Parameters, engine and memory stay. -/
  | keeps (params : t.params = s.params) (eng : t.eng = s.eng) (mem : t.mem = s.mem)
  /-- The engine is reset. -/
  | reset (first : s.inputs.head? = some .reset) (params : t.params = s.params) (eng : t.eng = Engine.reset)
      (mem : t.mem = s.mem)
  /-- The host stores bytes of the buffer port that the engine does not borrow. -/
  | stores (span : List Word) (value : Word)
      (free : ∀ a ∈ span, a.toNat < 2 ^ s.params.addrW ∧ borrowed s.params s.eng a.toNat = false)
      (params : t.params = s.params) (eng : t.eng = s.eng) (mem : t.mem = storeBytes value span s.mem)
  /-- The word the host writes to CMD runs. -/
  | command (w : Word) (rest : List Input) (admitted : commandBreach w (s.setInputs rest) = none)
      (runs : runCode (.cmd w) (s.setInputs rest) = .next t)

theorem hostRead_effect {addr : Word} {size : Size} {s t : State} {rest : List Input}
    (h : hostRead addr size (s.setInputs rest) = .next t) : StepEffect s t := by
  obtain ⟨w, rfl | ⟨-, rfl | rfl | rfl⟩⟩ := hostRead_cases h <;> exact .keeps (by simp) (by simp) (by simp)

theorem hostWrite_effect {addr : Word} {size : Size} {value : Word} {s t : State} {rest : List Input}
    (h : hostWrite addr size value (s.setInputs rest) = .next t) : StepEffect s t := by
  rcases hostWrite_cases h with rfl | rfl | rfl | ⟨admitted, runs⟩ | ⟨-, c, rfl⟩ | ⟨span, free, rfl⟩
  · exact .keeps rfl rfl rfl
  · exact .keeps rfl rfl rfl
  · exact .keeps rfl rfl rfl
  · exact .command value rest admitted runs
  · exact .keeps rfl rfl rfl
  · exact .stores span value free rfl rfl rfl

theorem runAccess_effect {k : Key} {s t : State} {rest : List Input}
    (h : runCode (.access k) (s.setInputs rest) = .next t) : StepEffect s t := by
  rcases runCode_cases h with ⟨i, decoded, runs⟩ | ⟨w, isCmd, -⟩
  · obtain ⟨params, eng, mem⟩ := exec_access_keeps (decodeKey_isCommand decoded) runs
    exact .keeps params eng mem
  · cases isCmd

theorem takeData_effect {s t : State} {rest : List Input} (h : takeData (s.setInputs rest) = .next t) :
    StepEffect s t := by
  unfold takeData at h
  split at h
  · cases h; exact .keeps rfl rfl rfl
  · cases h

theorem waitStep_effect {s t : State} {rest : List Input} (h : waitStep (s.setInputs rest) = .next t) :
    StepEffect s t := by
  unfold waitStep at h
  split at h
  · exact .engine (.wait :: rest) h
  · cases h; exact .keeps rfl rfl rfl

/-- Every step that answers a next state has one of these effects. -/
theorem step_effect {s t : State} (h : step s = .next t) : StepEffect s t := by
  cases hi : s.inputs with
  | nil =>
    rw [step_no_input hi] at h
    exact .engine s.inputs h
  | cons i rest =>
    rw [step_input hi] at h
    cases i with
    | read addr size => exact hostRead_effect h
    | write addr size value => exact hostWrite_effect h
    | access k => exact runAccess_effect h
    | takeData => exact takeData_effect h
    | tick => exact .engine rest h
    | wait => exact waitStep_effect h
    | reset => cases h; exact .reset (by simp [hi]) rfl rfl rfl
    | resetController => cases h; exact .keeps rfl rfl rfl

/-- Settles O36: the frame of the engine's step. -/
theorem engineLeavesConfiguration : Obligations.EngineLeavesConfiguration := by
  intro s t noInput h
  rw [step_no_input noInput] at h
  have frame := engineStep_frame h
  exact ⟨frame.cr1, frame.timingr, frame.oar1, frame.oar2, frame.timeoutr, frame.pecr, frame.params, frame.cmd, frame.len,
    frame.buf, frame.hostReads⟩

/-- Settles O35: the engine's step has the operands in its frame, and of the other effects only a reset and an accepted
command write them, but no command is accepted while the engine is busy. -/
theorem busyEngineKeepsOperands : Obligations.BusyEngineKeepsOperands := by
  intro s t busy noReset h
  cases step_effect h with
  | engine l steps =>
    have frame := engineStep_frame steps
    exact ⟨frame.op, frame.sadd, frame.raddr, frame.n, frame.base⟩
  | keeps params eng mem => simp [eng]
  | reset first => exact absurd first noReset
  | stores span value free params eng mem => simp [eng]
  | command w rest admitted runs =>
    have quiescent : s.eng.st.busy = false := (commandBreach_none admitted).1
    simp [busy] at quiescent

end Sys2Proof.Machine
end

section
/-! PROOFS. Every step keeps `State.Inv`: the engine's actions, then the accept of a command, then the other inputs. -/

namespace Sys2Proof.Machine

/-! ### Phases and their counts -/

theorem admitted_congr {e f : Engine} (op : f.op = e.op) (n : f.n = e.n) (h : e.Admitted) : f.Admitted := by
  simpa only [Engine.Admitted, op, n] using h

/-- An open phase stays open where its operands, E.phase and E.cur stay. -/
theorem Engine.Open.congr {e f : Engine} (h : e.Open) (op : f.op = e.op) (sadd : f.sadd = e.sadd) (n : f.n = e.n)
    (phase : f.phase = e.phase) (cur : f.cur = e.cur) : f.Open := by
  simpa only [Engine.Open, Engine.Admitted, Engine.phaseDescriptor, phase1, phase2, op, sadd, n, phase, cur] using h

theorem phase1_sadd {e : Engine} {d : Descriptor} (h : phase1 e = some d) : d.sadd = e.sadd := by
  unfold phase1 at h
  split at h <;> cases h <;> rfl

theorem phase2_sadd {e : Engine} {d : Descriptor} (h : phase2 e = some d) : d.sadd = e.sadd := by
  unfold phase2 at h
  split at h <;> cases h <;> rfl

/-- A word that is a positive integer is its number. -/
theorem toNat_of_toInt_pos {w : Word} (h : 1 ≤ w.toInt) : (w.toNat : Int) = w.toInt := by
  have := BitVec.toInt_eq_toNat_cond w
  have := w.isLt
  split_ifs at * <;> omega

/-- Phase 1 of an admitted operation has a byte to move: n + 1 with n up to 254 does not wrap (R141, R185). -/
theorem phase1_count_pos {e : Engine} {d : Descriptor} (admitted : e.Admitted) (h : phase1 e = some d) :
    0 < d.count.toNat := by
  unfold phase1 at h
  split at h
  · cases h
  · cases h; exact Nat.one_pos
  · cases h; exact Nat.one_pos
  · next ho =>
    cases h
    simp only [Engine.Admitted, ho, writeLimit] at admitted
    have := toNat_of_toInt_pos admitted.1
    have : (e.n.setWidth 8 + 1).toNat = (e.n.toNat % 256 + 1) % 256 := by simp
    simp only [this]
    omega

/-- Phase 2 of an admitted operation has a byte to move (R141, R184). -/
theorem phase2_count_pos {e : Engine} {d : Descriptor} (admitted : e.Admitted) (h : phase2 e = some d) :
    0 < d.count.toNat := by
  unfold phase2 at h
  split at h
  · cases h
  · cases h; exact Nat.one_pos
  · next ho =>
    cases h
    simp only [Engine.Admitted, ho, readLimit] at admitted
    have := toNat_of_toInt_pos admitted.1
    simp only [BitVec.toNat_setWidth]
    omega
  · cases h

theorem Engine.Open.count_pos {e : Engine} (h : e.Open) : 0 < e.cur.count.toNat := by
  obtain ⟨admitted, descriptor⟩ := h
  unfold Engine.phaseDescriptor at descriptor
  split at descriptor
  · exact phase1_count_pos admitted descriptor
  · exact phase2_count_pos admitted descriptor

/-! ### What the invariant says of a wait -/

/-- In a byte wait a phase is open with a byte still to move, and no stop has been caused. -/
theorem Engine.StateInv.of_byteWait {e : Engine} (h : e.StateInv) (wait : byteWait e) :
    e.Open ∧ e.idx < e.cur.count ∧ e.stopCause = .complete := by
  rcases wait with st | st <;> simp only [Engine.StateInv, st] at h
  · obtain ⟨opened, idx, cause⟩ := h
    refine ⟨opened, ?_, cause⟩
    rw [idx]
    exact opened.count_pos
  · obtain ⟨opened, -, below, cause⟩ := h
    exact ⟨opened, below, cause⟩

/-- Where NACK is seen a phase is open, with E.idx at most its count. -/
theorem Engine.StateInv.of_nackSeen {s : State} (h : s.eng.StateInv) (seen : nackSeen s) :
    s.eng.Open ∧ s.eng.idx ≤ s.eng.cur.count := by
  rcases seen with ⟨wait, -⟩ | ⟨wait, -⟩ | ⟨st, -⟩ | ⟨st, -⟩
  · obtain ⟨opened, below, -⟩ := h.of_byteWait wait
    exact ⟨opened, BitVec.le_of_lt below⟩
  · obtain ⟨opened, below, -⟩ := h.of_byteWait wait
    exact ⟨opened, BitVec.le_of_lt below⟩
  · simp only [Engine.StateInv, st] at h
    obtain ⟨opened, idx, -⟩ := h
    exact ⟨opened, by simp [idx]⟩
  · simp only [Engine.StateInv, st] at h
    obtain ⟨opened, atMost, -⟩ := h
    exact ⟨opened, atMost⟩

theorem byteWait_busy {e : Engine} (h : byteWait e) : e.st.busy = true := by
  rcases h with st | st <;> rw [st] <;> rfl

theorem nackSeen_busy {s : State} (h : nackSeen s) : s.eng.st.busy = true := by
  rcases h with ⟨wait, -⟩ | ⟨wait, -⟩ | ⟨st, -⟩ | ⟨st, -⟩
  · exact byteWait_busy wait
  · exact byteWait_busy wait
  · rw [st]; rfl
  · rw [st]; rfl

theorem Engine.Inv.of_invalid {e : Engine} (h : e.StateInv) (invalid : e.dataValid = false) : e.Inv :=
  ⟨h, by simp [invalid]⟩

/-- DATA_VALID is 0 while the engine is busy. -/
theorem Engine.Inv.invalid {e : Engine} (h : e.Inv) (busy : e.st.busy = true) : e.dataValid = false := by
  obtain ⟨-, valid⟩ := h
  cases hv : e.dataValid with
  | false => rfl
  | true =>
    obtain ⟨st, -⟩ := valid hv
    simp [st, EngState.busy] at busy

/-! ### The engine's actions -/

/-- Issue opens the phase whose descriptor it writes (R142). -/
theorem issue_stateInv {s : State} {d : Descriptor} (admitted : s.eng.Admitted)
    (descriptor : s.eng.phaseDescriptor = some d) (sadd : d.sadd = s.eng.sadd) (cause : s.eng.stopCause = .complete) :
    (issue d s).eng.StateInv := by
  rw [issue_eng]
  refine ⟨⟨admitted, ?_⟩, rfl, cause⟩
  rw [← sadd]
  exact descriptor

/-- A transferred byte leaves a byte wait for the next byte, or the completion wait of the phase (R148). -/
theorem engineAfterByte_stateInv {e : Engine} (opened : e.Open) (below : e.idx < e.cur.count)
    (cause : e.stopCause = .complete) : (engineAfterByte e).StateInv := by
  by_cases last : e.idx + 1 = e.cur.count
  · cases em : e.cur.em with
    | softwareEnd =>
      rw [engineAfterByte_softwareEnd last em]
      exact ⟨opened.congr rfl rfl rfl rfl rfl, last, em, cause⟩
    | autoEnd =>
      rw [engineAfterByte_autoEnd last em]
      exact ⟨opened.congr rfl rfl rfl rfl rfl, BitVec.le_of_eq last, fun _ => ⟨last, em⟩⟩
  · rw [engineAfterByte_more last]
    refine ⟨opened.congr rfl rfl rfl rfl rfl, ?_, ?_, cause⟩ <;> simp only <;> bv_omega

theorem sendByte_eng {s t : State} (h : sendByte s = .next t) : t.eng = engineAfterByte s.eng := by
  rcases sendByte_cases h with ⟨-, rfl⟩ | ⟨a, -, -, -, rfl⟩ <;> simp

theorem receiveByte_eng {s t : State} (h : receiveByte s = .next t) :
    ∃ data, t.eng = engineAfterByte { s.eng with data := data } := by
  rcases receiveByte_cases h with ⟨-, rfl⟩ | ⟨a, -, -, -, rfl⟩
  · exact ⟨received s, by simp⟩
  · exact ⟨s.eng.data, by simp⟩

/-- The end of a phase without AUTO_END opens phase 2 or is DONE (R151, R156). -/
theorem transferComplete_inv {s : State} (h : s.eng.Inv) (st : s.eng.st = .awaitTransferComplete) :
    (transferComplete s).eng.Inv := by
  have invalid := h.invalid (by rw [st]; rfl)
  obtain ⟨state, -⟩ := h
  rcases transferComplete_cases s with ⟨d, -, descriptor, ht⟩ | ht <;> rw [ht]
  · simp only [Engine.StateInv, st] at state
    obtain ⟨⟨admitted, -⟩, -, -, cause⟩ := state
    exact .of_invalid (issue_stateInv admitted descriptor (phase2_sadd descriptor) cause) (by simp [invalid])
  · exact .of_invalid trivial invalid

/-- The end of an AUTO_END phase is DONE, with a byte to show after BYTE_READ alone (R152). -/
theorem stopComplete_inv {s : State} (invalid : s.eng.dataValid = false) : (stopComplete s).eng.Inv :=
  ⟨trivial, fun valid => ⟨rfl, by simpa [stopComplete, invalid] using valid⟩⟩

/-- The engine's step keeps the engine's invariant. -/
theorem engineStep_keeps_engineInv {s t : State} (hs : s.eng.Inv) (h : engineStep s = .next t) : t.eng.Inv := by
  have state : s.eng.StateInv := hs.1
  rcases engineStep_cases h with ⟨-, rfl⟩ | ⟨-, rfl⟩ | ⟨seen, rfl⟩ | ⟨st, -, d, descriptor, rfl⟩ |
    ⟨wait, -, -, sent⟩ | ⟨wait, -, -, taken⟩ | ⟨st, -, rfl⟩ | ⟨st, -, -, rfl⟩ | ⟨st, -, -, rfl⟩
  · exact hs
  · simpa using hs
  · obtain ⟨opened, atMost⟩ := state.of_nackSeen seen
    have invalid := hs.invalid (nackSeen_busy seen)
    rw [abortEntry_eng, pollStatus_eng]
    exact .of_invalid ⟨opened.congr rfl rfl rfl rfl rfl, atMost, nofun⟩ invalid
  · have invalid := hs.invalid (by rw [st]; rfl)
    simp only [Engine.StateInv, st] at state
    obtain ⟨admitted, phase, -, cause⟩ := state
    have opens : s.eng.phaseDescriptor = some d := by rw [Engine.phaseDescriptor, phase]; exact descriptor
    rw [← pollStatus_eng] at admitted opens cause descriptor
    exact .of_invalid (issue_stateInv admitted opens (phase1_sadd descriptor) cause) (by simpa using invalid)
  · obtain ⟨opened, below, cause⟩ := state.of_byteWait wait
    have invalid := hs.invalid (byteWait_busy wait)
    rw [sendByte_eng sent, pollStatus_eng]
    exact .of_invalid (engineAfterByte_stateInv opened below cause) (by simpa using invalid)
  · obtain ⟨opened, below, cause⟩ := state.of_byteWait wait
    have invalid := hs.invalid (byteWait_busy wait)
    obtain ⟨data, eng⟩ := receiveByte_eng taken
    rw [eng, pollStatus_eng]
    exact .of_invalid (engineAfterByte_stateInv (opened.congr rfl rfl rfl rfl rfl) below cause) (by simpa using invalid)
  · exact transferComplete_inv (by simpa using hs) (by simpa using st)
  · exact stopComplete_inv (by simpa using hs.invalid (by rw [st]; rfl))
  · have invalid := hs.invalid (by rw [st]; rfl)
    rw [abortReturn_eng, pollStatus_eng]
    exact .of_invalid trivial invalid

/-! ### Memory -/

/-- Memory in canonical form, every cell inside the buffer port. -/
def MemoryInPort (p : Params) (m : Memory) : Prop := Memory.wf m ∧ ∀ c ∈ m, c.1 < 2 ^ p.addrW

theorem MemoryInPort.write {p : Params} {m : Memory} {a : Nat} (h : MemoryInPort p m) (inPort : a < 2 ^ p.addrW)
    (b : Byte) : MemoryInPort p (Memory.write m a b) := by
  obtain ⟨canonical, cells⟩ := h
  refine ⟨Memory.wf_write m a b canonical, fun c hc => ?_⟩
  rcases Memory.mem_write m a b c hc with ⟨rfl, -⟩ | old
  · exact inPort
  · exact cells c old

theorem MemoryInPort.storeBytes {p : Params} {m : Memory} {span : List Word} (h : MemoryInPort p m)
    (inPort : ∀ a ∈ span, a.toNat < 2 ^ p.addrW) (value : Word) : MemoryInPort p (storeBytes value span m) := by
  obtain ⟨canonical, cells⟩ := h
  refine ⟨Memory.wf_storeBytes span value m canonical, fun c hc => ?_⟩
  rcases Memory.mem_storeBytes span value m c hc with ⟨a, ha, at_a⟩ | old
  · rw [at_a]; exact inPort a ha
  · exact cells c old

/-- Every buffer address is inside the buffer port (20_memory.md R60). -/
theorem bufferAddr_lt (p : Params) (e : Engine) (i : Nat) : bufferAddr p e i < 2 ^ p.addrW :=
  Nat.mod_lt _ (Nat.two_pow_pos _)

/-- The engine's step leaves memory as it is, or writes one buffer byte. -/
theorem engineStep_mem {s t : State} (h : engineStep s = .next t) :
    t.mem = s.mem ∨ ∃ i b, t.mem = Memory.write s.mem (bufferAddr s.params s.eng i) b := by
  rcases engineStep_cases h with ⟨-, rfl⟩ | ⟨-, rfl⟩ | ⟨-, rfl⟩ | ⟨-, -, d, -, rfl⟩ | ⟨-, -, -, sent⟩ |
    ⟨-, -, -, taken⟩ | ⟨-, -, rfl⟩ | ⟨-, -, -, rfl⟩ | ⟨-, -, -, rfl⟩
  · exact .inl rfl
  · exact .inl (by simp)
  · exact .inl (by simp)
  · exact .inl (by simp)
  · rcases sendByte_cases sent with ⟨-, rfl⟩ | ⟨a, -, -, -, rfl⟩ <;> exact .inl (by simp)
  · rcases receiveByte_cases taken with ⟨-, rfl⟩ | ⟨a, ha, -, -, rfl⟩
    · exact .inl (by simp)
    · exact .inr ⟨s.eng.idx.toNat, received (pollStatus s), by simp [ha]⟩
  · rcases transferComplete_cases (pollStatus s) with ⟨d, -, -, ht⟩ | ht <;> exact .inl (by simp [ht])
  · exact .inl (by simp [stopComplete])
  · exact .inl (by simp)

theorem engineStep_keeps_memoryInPort {s t : State} (hs : MemoryInPort s.params s.mem) (h : engineStep s = .next t) :
    MemoryInPort s.params t.mem := by
  rcases engineStep_mem h with same | ⟨i, b, written⟩
  · rwa [same]
  · rw [written]
    exact hs.write (bufferAddr_lt s.params s.eng i) b

/-! ### The engine's step -/

/-- The engine becomes busy by the accept of a command alone. -/
theorem engineStep_busy {s t : State} (h : engineStep s = .next t) (busy : t.eng.st.busy = true) :
    s.eng.st.busy = true := by
  by_contra quiescent
  rw [engineStep_quiescent (by simpa using quiescent)] at h
  cases h
  exact quiescent busy

/-- The buffer of a running burst is decided by its operands. -/
theorem bufferFits_congr {p : Params} {e f : Engine} (op : f.op = e.op) (n : f.n = e.n) (base : f.base = e.base)
    (busy : f.st.busy = true → e.st.busy = true) (h : e.BufferFits p) : f.BufferFits p := by
  intro running burst
  have fits := h (busy running) (by rwa [← op])
  simpa only [BufferClear, bufferAddr, n, base] using fits

/-- The invariant, from its parts. -/
theorem State.Inv.of_parts {s t : State} (params : t.params = s.params) (engine : t.eng.Inv)
    (mem : MemoryInPort s.params t.mem) (base : t.eng.base.toNat < 2 ^ s.params.addrW)
    (fits : t.eng.BufferFits s.params) : t.Inv := by
  rw [← params] at mem base fits
  exact ⟨engine, mem.1, mem.2, base, fits⟩

theorem State.Inv.memoryInPort {s : State} (h : s.Inv) : MemoryInPort s.params s.mem := by
  obtain ⟨-, canonical, cells, -⟩ := h
  exact ⟨canonical, cells⟩

theorem engineStep_keeps_inv {s t : State} (hs : s.Inv) (h : engineStep s = .next t) : t.Inv := by
  have mem := engineStep_keeps_memoryInPort hs.memoryInPort h
  obtain ⟨engine, -, -, base, fits⟩ := hs
  have frame := engineStep_frame h
  exact .of_parts frame.params (engineStep_keeps_engineInv engine h) mem (by rwa [frame.base])
    (bufferFits_congr frame.op frame.n frame.base (engineStep_busy h) fits)

/-! ### The accept of a command -/

theorem bufferFits_quiescent {p : Params} {e : Engine} (h : e.st.busy = false) : e.BufferFits p := by
  intro busy
  simp [h] at busy

/-- A quiescent state asks nothing of the other registers. -/
theorem stateInv_quiescent {e : Engine} (h : e.st.busy = false) : e.StateInv := by
  unfold Engine.StateInv
  cases st : e.st <;> simp_all [EngState.busy]

@[simp] theorem baseOf_toNat (p : Params) (buf : Word) : (baseOf p buf).toNat = buf.toNat % 2 ^ p.addrW := by
  have : buf.toNat % 2 ^ p.addrW < 2 ^ 32 := Nat.lt_of_le_of_lt (Nat.mod_le _ _) buf.isLt
  simp only [baseOf, BitVec.toNat_ofNat, Nat.mod_eq_of_lt this]

/-- What the accept of any command in `s` leaves in the registers `e`, whichever state it goes to (R180): no result, and
E.base an address. -/
structure Accepted (s : State) (e : Engine) : Prop where
  phase : e.phase = .first
  idx : e.idx = 0
  cause : e.stopCause = .complete
  invalid : e.dataValid = false
  base : e.base.toNat < 2 ^ s.params.addrW

theorem Accepted.latch (op : Op) (sadd : BitVec 7) (raddr : Byte) (w : Word) (s : State) :
    Accepted s (latch op sadd raddr w s).eng :=
  ⟨rfl, rfl, rfl, rfl, by simpa [Machine.latch] using Nat.mod_lt _ (Nat.two_pow_pos _)⟩

theorem Accepted.clearResult {s : State} (hs : s.Inv) : Accepted s (clearResult s.eng) := by
  obtain ⟨-, -, -, base, -⟩ := hs
  exact ⟨rfl, rfl, rfl, rfl, base⟩

theorem Accepted.quiescent_inv {s t : State} {e : Engine} {st : EngState} (he : Accepted s e) (hs : s.Inv)
    (params : t.params = s.params) (mem : t.mem = s.mem) (eng : t.eng = { e with st := st })
    (quiescent : st.busy = false) : t.Inv := by
  refine .of_parts params ?_ (by rw [mem]; exact hs.memoryInPort) ?_ ?_ <;> rw [eng]
  · exact .of_invalid (stateInv_quiescent quiescent) he.invalid
  · exact he.base
  · exact bufferFits_quiescent quiescent

theorem Accepted.guard_inv {s t : State} {e : Engine} (he : Accepted s e) (hs : s.Inv) (params : t.params = s.params)
    (mem : t.mem = s.mem) (eng : t.eng = { e with st := .awaitBusFree }) (admitted : e.Admitted)
    (fits : t.eng.BufferFits s.params) : t.Inv := by
  refine .of_parts params ?_ (by rw [mem]; exact hs.memoryInPort) ?_ fits <;> rw [eng]
  · exact .of_invalid ⟨admitted, he.phase, he.idx, he.cause⟩ he.invalid
  · exact he.base

/-- The three results of the count check of a burst (42_sequencer_and_operations.md R182). -/
theorem checkCount_cases (limit : Int) (s : State) :
    checkCount limit s = finishAtOnce s ∨ checkCount limit s = reject s ∨
      (1 ≤ s.eng.n.toInt ∧ s.eng.n.toInt ≤ limit ∧ checkCount limit s = startGuard s) := by
  unfold checkCount
  split_ifs with low high
  · exact .inl rfl
  · exact .inr (.inl rfl)
  · exact .inr (.inr ⟨by omega, by omega, rfl⟩)

/-- The accept of a burst keeps the invariant where LEN and BUF describe a buffer the host's contract admits (R69, U14). -/
theorem burstAccept_inv {op : Op} {limit : Int} (sadd : BitVec 7) (raddr : Byte) (w : Word) {s : State} (hs : s.Inv)
    (admits : ∀ e : Engine, e.op = op → 1 ≤ e.n.toInt → e.n.toInt ≤ limit → e.Admitted)
    (contract : 1 ≤ s.len.toInt → s.len.toInt ≤ limit →
      s.buf.toNat % 2 ^ s.params.addrW + s.len.toNat ≤ 2 ^ s.params.addrW ∧
        overlapsRegisters s.params (s.buf.toNat % 2 ^ s.params.addrW) s.len.toNat = false) :
    (checkCount limit (latch op sadd raddr w s)).Inv := by
  have latched := Accepted.latch op sadd raddr w s
  rcases checkCount_cases limit (latch op sadd raddr w s) with h | h | ⟨low, high, h⟩ <;> rw [h]
  · exact latched.quiescent_inv hs rfl rfl rfl rfl
  · exact latched.quiescent_inv hs rfl rfl (reject_eng _) rfl
  · refine latched.guard_inv hs rfl rfl rfl (admits _ rfl low high) fun _ _ => ?_
    obtain ⟨inPort, clear⟩ := contract low high
    rw [overlapsRegisters_false] at clear
    simpa [BufferClear, bufferAddr, latch] using And.intro inPort clear

/-- The accept of a command the host's contract admits keeps the invariant. -/
theorem command_keeps_inv {s t : State} {w : Word} (hs : s.Inv) (admitted : commandBreach w s = none)
    (runs : runCode (.cmd w) s = .next t) : t.Inv := by
  obtain ⟨quiescent, contract⟩ := commandBreach_none admitted
  rcases runCode_cases runs with ⟨i, decoded, runs⟩ | ⟨w', -, rfl⟩
  · have isCommand := decodeCmd_isCommand decoded
    cases i with
    | byteRead sadd raddr =>
      simp only [exec, execByteRead, whenQuiescent_quiescent _ quiescent, Host.Outcome.next.injEq] at runs
      subst runs
      exact (Accepted.latch ..).guard_inv hs rfl rfl rfl trivial (by simp [Engine.BufferFits, latch])
    | burstRead sadd raddr =>
      simp only [exec, execBurstRead, whenQuiescent_quiescent _ quiescent, Host.Outcome.next.injEq] at runs
      subst runs
      exact burstAccept_inv _ _ _ hs (fun e op low high => by simpa [Engine.Admitted, op] using ⟨low, high⟩)
        (contract _ _ decoded rfl)
    | burstWrite sadd raddr =>
      simp only [exec, execBurstWrite, whenQuiescent_quiescent _ quiescent, Host.Outcome.next.injEq] at runs
      subst runs
      exact burstAccept_inv _ _ _ hs (fun e op low high => by simpa [Engine.Admitted, op] using ⟨low, high⟩)
        (contract _ _ decoded rfl)
    | _ => cases isCommand
  · rw [acceptIllegal, whenQuiescent_quiescent _ quiescent]
    exact (Accepted.clearResult hs).quiescent_inv hs rfl rfl rfl rfl

/-! ### Every step -/

/-- The invariant speaks of the parameters, the engine and memory alone. -/
theorem State.Inv.congr {s t : State} (h : s.Inv) (params : t.params = s.params) (eng : t.eng = s.eng)
    (mem : t.mem = s.mem) : t.Inv := by
  simpa only [State.Inv, params, eng, mem] using h

/-- The registers of a reset engine meet the invariant (R20, R250). -/
theorem reset_engineInv : Engine.reset.Inv := .of_invalid trivial rfl

/-- Settles O45: every effect a step can have keeps the invariant. -/
theorem stepKeepsInvariant : Obligations.StepKeepsInvariant := by
  intro s t hs h
  cases step_effect h with
  | engine l steps => exact engineStep_keeps_inv (hs.congr (t := s.setInputs l) rfl rfl rfl) steps
  | keeps params eng mem => exact hs.congr params eng mem
  | reset first params eng mem =>
    refine .of_parts params ?_ (by rw [mem]; exact hs.memoryInPort) ?_ ?_ <;> rw [eng]
    · exact reset_engineInv
    · exact Nat.two_pow_pos _
    · exact bufferFits_quiescent rfl
  | stores span value free params eng mem =>
    have stored := hs.memoryInPort.storeBytes (fun a ha => (free a ha).1) value
    obtain ⟨engine, -, -, base, fits⟩ := hs
    refine .of_parts params ?_ (by rw [mem]; exact stored) ?_ ?_ <;> rwa [eng]
  | command w rest admitted runs =>
    exact command_keeps_inv (hs.congr (t := s.setInputs rest) rfl rfl rfl) admitted runs

end Sys2Proof.Machine
end

section
/-! PROOFS. The engine's step as one choice and one action: the poll decides the choice, and nothing else of the poll steers
the action. -/

namespace Sys2Proof.Machine

/-! ### The step as a choice and an action -/

/-- What the step's poll selects: with NACKF where the state tests it (40_bus_guard_and_primitives.md R121), else by the
awaited flag alone. -/
def choice (s : State) : Selection :=
  if s.eng.nackTested then select s.params.nackPriority (polled s).nackf (s.eng.awaited (polled s))
  else if s.eng.awaited (polled s) then .ready
  else .none

/-- The READY action of each state, from the state after the poll. -/
def readyAction (s : State) : Host.Outcome State Fault Refusal :=
  match s.eng.st with
  | .awaitBusFree =>
    match phase1 s.eng with
    | some d => .next (issue d s)
    | none => .fault .noOperation
  | .awaitAddrAck | .awaitByteReady =>
    match s.eng.cur.dir with
    | .write => sendByte s
    | .read => receiveByte s
  | .awaitTransferComplete => .next (transferComplete s)
  | .awaitStop =>
    match s.eng.stopCause with
    | .complete => .next (stopComplete s)
    | .abort => .next (abortReturn s)
  | .idle | .done | .aborted | .illegal => .next s

/-- The action a choice asks for. -/
def respond (c : Selection) (s : State) : Host.Outcome State Fault Refusal :=
  match c with
  | .nack => .next (abortEntry s)
  | .ready => readyAction s
  | .none => .next s

/-- In a wait that tests NACK the choice is the selection between NACKF and the flag waited for. -/
theorem choice_of_nackTested {s : State} (flag : Flags → Bool) (tested : s.eng.nackTested = true)
    (awaited : s.eng.awaited (polled s) = flag (polled s)) : choice s = selection s flag := by
  simp [choice, selection, tested, awaited]

theorem byteWait_nackTested {e : Engine} (h : byteWait e) : e.nackTested = true := by
  rcases h with st | st <;> simp [Engine.nackTested, st]

/-- A byte wait awaits TXIS in a WRITE phase and RXNE in a READ phase. -/
theorem awaited_byteWait {e : Engine} (h : byteWait e) (f : Flags) :
    e.awaited f = if e.cur.dir = .write then f.txis else f.rxne := by
  rcases h with st | st <;> simp only [Engine.awaited, st]

theorem byteWait_eq_respond {s : State} (wait : byteWait s.eng) : engineStep s = respond (choice s) (pollStatus s) := by
  have tested := byteWait_nackTested wait
  cases dir : s.eng.cur.dir with
  | write =>
    have steps : engineStep s = writeByteStep s := by rcases wait with st | st <;> simp [engineStep, st, dir]
    have ready : readyAction (pollStatus s) = sendByte (pollStatus s) := by
      rcases wait with st | st <;> simp [readyAction, st, dir]
    have chosen : choice s = selection s Flags.txis :=
      choice_of_nackTested _ tested (by simp [awaited_byteWait wait, dir])
    simp only [steps, writeByteStep, chosen]
    cases selection s Flags.txis <;> simp [respond, ready]
  | read =>
    have steps : engineStep s = readByteStep s := by rcases wait with st | st <;> simp [engineStep, st, dir]
    have ready : readyAction (pollStatus s) = receiveByte (pollStatus s) := by
      rcases wait with st | st <;> simp [readyAction, st, dir]
    have chosen : choice s = selection s Flags.rxne :=
      choice_of_nackTested _ tested (by simp [awaited_byteWait wait, dir])
    simp only [steps, readByteStep, chosen]
    cases selection s Flags.rxne <;> simp [respond, ready]

theorem busGuard_eq_respond {s : State} (st : s.eng.st = .awaitBusFree) :
    engineStep s = respond (choice s) (pollStatus s) := by
  cases busy : (polled s).busy with
  | true =>
    have chosen : choice s = .none := by simp [choice, Engine.nackTested, Engine.awaited, st, busy]
    simp [engineStep, busGuardStep, st, busy, chosen, respond]
  | false =>
    have chosen : choice s = .ready := by simp [choice, Engine.nackTested, Engine.awaited, st, busy]
    cases descriptor : phase1 s.eng <;>
      simp [engineStep, busGuardStep, st, busy, chosen, respond, readyAction, descriptor]

theorem transferComplete_eq_respond {s : State} (st : s.eng.st = .awaitTransferComplete) :
    engineStep s = respond (choice s) (pollStatus s) := by
  have chosen : choice s = selection s Flags.tc :=
    choice_of_nackTested _ (by simp [Engine.nackTested, st]) (by simp [Engine.awaited, st])
  simp only [engineStep, st, transferCompleteStep, chosen]
  cases selection s Flags.tc <;> simp [respond, readyAction, st]

theorem stop_eq_respond {s : State} (st : s.eng.st = .awaitStop) :
    engineStep s = respond (choice s) (pollStatus s) := by
  cases cause : s.eng.stopCause with
  | complete =>
    have chosen : choice s = selection s Flags.stopf :=
      choice_of_nackTested _ (by simp [Engine.nackTested, st, cause]) (by simp [Engine.awaited, st])
    simp only [engineStep, st, cause, stopCompleteStep, chosen]
    cases selection s Flags.stopf <;> simp [respond, readyAction, st, cause]
  | abort =>
    have chosen : choice s = if (polled s).stopf then .ready else .none := by
      simp [choice, Engine.nackTested, Engine.awaited, st, cause]
    simp only [engineStep, st, cause, stopAbortStep, chosen]
    cases (polled s).stopf <;> simp [respond, readyAction, st, cause]

/-- The step of a busy engine is its poll and then the action its choice asks for (41_transaction_engine.md R140). -/
theorem engineStep_eq_respond {s : State} (busy : s.eng.st.busy = true) :
    engineStep s = respond (choice s) (pollStatus s) := by
  cases st : s.eng.st with
  | awaitBusFree => exact busGuard_eq_respond st
  | awaitAddrAck => exact byteWait_eq_respond (.inl st)
  | awaitByteReady => exact byteWait_eq_respond (.inr st)
  | awaitTransferComplete => exact transferComplete_eq_respond st
  | awaitStop => exact stop_eq_respond st
  | _ => simp [st, EngState.busy] at busy

/-! ### Two runs that differ in what the poll showed -/

/-- Two states that differ in the controller's registers and in what their traces began with, `p` and `q`: what one step
can tell apart of two polls that lead to the same choice. -/
structure SameAfter (p q : List Event) (s t : State) : Prop where
  params : t.params = s.params
  eng : t.eng = s.eng
  mem : t.mem = s.mem
  env : t.env = s.env
  trace : ∃ events, s.trace = p ++ events ∧ t.trace = q ++ events

section
variable {p q : List Event} {s t s' t' : State}

/-- Two states that performed the same further accesses. -/
theorem SameAfter.extend (h : SameAfter p q s t) (events : List Event) (params : t'.params = s'.params)
    (eng : t'.eng = s'.eng) (mem : t'.mem = s'.mem) (env : t'.env = s'.env) (hs : s'.trace = s.trace ++ events)
    (ht : t'.trace = t.trace ++ events) : SameAfter p q s' t' := by
  obtain ⟨before, hp, hq⟩ := h.trace
  exact ⟨params, eng, mem, env, before ++ events, by simp [hs, hp], by simp [ht, hq]⟩

theorem SameAfter.issue (h : SameAfter p q s t) (d : Descriptor) : SameAfter p q (issue d s) (issue d t) := by
  refine h.extend [.writeCtrl d, .ctrlRead (nextCtrl s.env), .start] ?_ ?_ ?_ ?_ ?_ ?_ <;>
    simp [h.params, h.eng, h.mem, h.env]

theorem SameAfter.abortEntry (h : SameAfter p q s t) : SameAfter p q (abortEntry s) (abortEntry t) := by
  refine h.extend [.clearNack, .ctrlRead (nextCtrl s.env), .stop] ?_ ?_ ?_ ?_ ?_ ?_ <;>
    simp [h.params, h.eng, h.mem, h.env]

theorem SameAfter.abortReturn (h : SameAfter p q s t) : SameAfter p q (abortReturn s) (abortReturn t) := by
  refine h.extend [.clearStop] ?_ ?_ ?_ ?_ ?_ ?_ <;> simp [h.params, h.eng, h.mem, h.env]

theorem SameAfter.stopComplete (h : SameAfter p q s t) : SameAfter p q (stopComplete s) (stopComplete t) := by
  refine h.extend [.clearStop] ?_ ?_ ?_ ?_ ?_ ?_ <;> simp [Machine.stopComplete, h.params, h.eng, h.mem, h.env]

theorem SameAfter.setEng (h : SameAfter p q s t) (e : Engine) : SameAfter p q (s.setEng e) (t.setEng e) :=
  h.extend [] (by simp [h.params]) rfl (by simp [h.mem]) (by simp [h.env]) (by simp) (by simp)

theorem SameAfter.transferComplete (h : SameAfter p q s t) :
    SameAfter p q (transferComplete s) (transferComplete t) := by
  unfold Machine.transferComplete
  rw [h.eng]
  split
  · exact (h.setEng _).issue _
  · exact h.setEng _

theorem SameAfter.sendByte (h : SameAfter p q s t) (sent : sendByte s = .next s') :
    ∃ t', sendByte t = .next t' ∧ SameAfter p q s' t' := by
  rcases sendByte_cases sent with ⟨pointer, rfl⟩ | ⟨a, at_a, buffer, free, rfl⟩
  · refine ⟨_, sendByte_pointer (by rwa [h.eng]), ?_⟩
    refine h.extend [.tx s.eng.raddr] ?_ ?_ ?_ ?_ ?_ ?_ <;> simp [h.params, h.eng, h.mem, h.env]
  · refine ⟨_, sendByte_buffer (a := a) (by rwa [h.eng]) (by rwa [h.eng, h.params]) (by rwa [h.params]), ?_⟩
    refine h.extend [.memRead a (Memory.read s.mem a), .tx (Memory.read s.mem a)] ?_ ?_ ?_ ?_ ?_ ?_ <;>
      simp [h.params, h.eng, h.mem, h.env]

theorem SameAfter.received (h : SameAfter p q s t) : received t = received s := by
  simp [Machine.received, h.params, h.env]

theorem SameAfter.receiveByte (h : SameAfter p q s t) (taken : receiveByte s = .next s') :
    ∃ t', receiveByte t = .next t' ∧ SameAfter p q s' t' := by
  rcases receiveByte_cases taken with ⟨byteRead, rfl⟩ | ⟨a, at_a, burst, free, rfl⟩
  · refine ⟨_, receiveByte_data (by rwa [h.eng]), ?_⟩
    refine h.extend [.rx (Machine.received s)] ?_ ?_ ?_ ?_ ?_ ?_ <;>
      simp [h.params, h.eng, h.mem, h.env, h.received]
  · refine ⟨_, receiveByte_buffer (a := a) (by rwa [h.eng]) (by rwa [h.eng, h.params]) (by rwa [h.params]), ?_⟩
    refine h.extend [.rx (Machine.received s), .memWrite a (Machine.received s)] ?_ ?_ ?_ ?_ ?_ ?_ <;>
      simp [h.params, h.eng, h.mem, h.env, h.received]

theorem SameAfter.readyAction (h : SameAfter p q s t) (acts : readyAction s = .next s') :
    ∃ t', readyAction t = .next t' ∧ SameAfter p q s' t' := by
  unfold Machine.readyAction at acts ⊢
  rw [h.eng]
  cases st : s.eng.st with
  | awaitBusFree =>
    cases descriptor : phase1 s.eng with
    | some d =>
      simp only [st, descriptor, Host.Outcome.next.injEq] at acts ⊢
      exact ⟨_, rfl, acts ▸ h.issue d⟩
    | none => simp [st, descriptor] at acts
  | awaitAddrAck | awaitByteReady =>
    cases dir : s.eng.cur.dir with
    | write =>
      simp only [st, dir] at acts ⊢
      exact h.sendByte acts
    | read =>
      simp only [st, dir] at acts ⊢
      exact h.receiveByte acts
  | awaitTransferComplete =>
    simp only [st, Host.Outcome.next.injEq] at acts ⊢
    exact ⟨_, rfl, acts ▸ h.transferComplete⟩
  | awaitStop =>
    cases cause : s.eng.stopCause with
    | complete =>
      simp only [st, cause, Host.Outcome.next.injEq] at acts ⊢
      exact ⟨_, rfl, acts ▸ h.stopComplete⟩
    | abort =>
      simp only [st, cause, Host.Outcome.next.injEq] at acts ⊢
      exact ⟨_, rfl, acts ▸ h.abortReturn⟩
  | idle | done | aborted | illegal =>
    simp only [st, Host.Outcome.next.injEq] at acts ⊢
    exact ⟨_, rfl, acts ▸ h⟩

theorem SameAfter.respond (h : SameAfter p q s t) {c : Selection} (acts : respond c s = .next s') :
    ∃ t', respond c t = .next t' ∧ SameAfter p q s' t' := by
  cases c with
  | nack =>
    simp only [Machine.respond, Host.Outcome.next.injEq] at acts ⊢
    exact ⟨_, rfl, acts ▸ h.abortEntry⟩
  | ready => exact h.readyAction acts
  | none =>
    simp only [Machine.respond, Host.Outcome.next.injEq] at acts ⊢
    exact ⟨_, rfl, acts ▸ h⟩

end

/-- The state with another next answer to a read of ISR. -/
def State.showing (s : State) (v : Word) (rest : List Word) : State := s.setEnv { s.env with status := v :: rest }

@[simp] theorem showing_params (s : State) (v : Word) (rest : List Word) : (s.showing v rest).params = s.params := rfl
@[simp] theorem showing_eng (s : State) (v : Word) (rest : List Word) : (s.showing v rest).eng = s.eng := rfl
@[simp] theorem showing_mem (s : State) (v : Word) (rest : List Word) : (s.showing v rest).mem = s.mem := rfl
@[simp] theorem showing_trace (s : State) (v : Word) (rest : List Word) : (s.showing v rest).trace = s.trace := rfl
@[simp] theorem showing_inputs (s : State) (v : Word) (rest : List Word) : (s.showing v rest).inputs = s.inputs := rfl

theorem polled_showing (s : State) (v : Word) (rest : List Word) :
    polled (s.showing v rest) = flagsOf s.params.regif v :=
  polled_cons rfl

/-- The polls of two answers leave states that differ in what they showed alone. -/
theorem sameAfter_pollStatus {s : State} {w v : Word} {rest : List Word} (shown : s.env.status = w :: rest) :
    SameAfter (s.trace ++ [.poll (flagsOf s.params.regif w)]) (s.trace ++ [.poll (flagsOf s.params.regif v)])
      (pollStatus s) (pollStatus (s.showing v rest)) := by
  refine ⟨by simp, by simp, by simp, ?_, [], ?_, ?_⟩
  · rw [pollStatus_env, pollStatus_env, afterStatus_cons shown]
    exact afterStatus_cons rfl
  · simp [polled_cons shown]
  · simp [polled_showing]

/-- Two answers that agree on the awaited flag and, where it is tested, on NACKF lead to the same choice. -/
theorem choice_showing {s : State} {w v : Word} {rest : List Word} (shown : s.env.status = w :: rest)
    (awaited : s.eng.awaited (flagsOf s.params.regif w) = s.eng.awaited (flagsOf s.params.regif v))
    (nackf : s.eng.nackTested = true → (flagsOf s.params.regif w).nackf = (flagsOf s.params.regif v).nackf) :
    choice (s.showing v rest) = choice s := by
  rw [choice, choice, polled_showing, polled_cons shown, showing_eng, showing_params, awaited]
  by_cases tested : s.eng.nackTested = true
  · rw [nackf tested]
  · rw [if_neg tested, if_neg tested]

/-- Settles O37: the two answers lead to the same choice, and the action it asks for does not see what else they showed. -/
theorem unreadFlagsHaveNoEffect : Obligations.UnreadFlagsHaveNoEffect := by
  intro s t w v rest noInput shown awaited nackf h
  rw [step_no_input noInput] at h
  change ∃ u, step (s.showing v rest) = .next u ∧ _
  rw [step_no_input (by simpa using noInput)]
  cases busy : s.eng.st.busy with
  | false =>
    rw [engineStep_quiescent busy] at h
    cases h
    exact ⟨_, engineStep_quiescent busy, rfl, rfl, nofun⟩
  | true =>
    rw [engineStep_eq_respond busy] at h
    obtain ⟨u, acts, same⟩ := (sameAfter_pollStatus (v := v) shown).respond h
    refine ⟨u, ?_, same.eng, same.mem, fun _ => ⟨same.env, ?_⟩⟩
    · rw [engineStep_eq_respond (s := s.showing v rest) busy, choice_showing shown awaited nackf]
      exact acts
    · obtain ⟨events, ht, hu⟩ := same.trace
      exact ⟨events, by simpa using ht, by simpa using hu⟩

end Sys2Proof.Machine
end

section
/-! PROOFS. The flags a clear touches, the bits of STATUS, and the host's accesses to the command registers. -/

namespace Sys2Proof.Machine

/-! ### Clearing a flag -/

/-- ISR after a clear of one flag has every bit as it was but that one. -/
theorem getLsbD_and_not_bit (isr : Word) {n : Nat} (j : Nat) :
    (isr &&& ~~~bit n).getLsbD j = (isr.getLsbD j && decide (j ≠ n)) := by
  by_cases hj : j < 32
  · simp [getElem_bit, hj]
  · simp [BitVec.getLsbD_of_ge isr j (by omega)]

/-- A clear bit of ICR that stands where the flag it clears stands in ISR. -/
theorem clearedBit_same (value : Word) (n : Nat) : clearedBit value (n, n) = value &&& bit n := by
  apply BitVec.eq_of_getLsbD_eq
  intro j hj
  rw [clearedBit, BitVec.getLsbD_and, getLsbD_bit]
  split
  · next isSet =>
    rw [getLsbD_bit]
    by_cases h : j = n <;> simp [h, isSet]
  · next isClear => by_cases h : j = n <;> simp [h, isClear]

/-- In the default binding each clear bit of ICR stands where its flag stands in ISR: bits 3, 4, 5 and 8 to 13
(10_state.md R44). -/
theorem clearedBits_stm32f3 (value : Word) : clearedBits .stm32f3 value = value &&& 0x00003F38 := by
  have mask : (0x00003F38 : Word) = bit 4 ||| (bit 5 ||| (bit 3 ||| (bit 8 ||| (bit 9 ||| (bit 10 ||| (bit 11 |||
      (bit 12 ||| (bit 13 ||| 0)))))))) := by decide
  rw [mask]
  simp only [clearedBits, Binding.stm32f3, List.foldr_cons, List.foldr_nil, clearedBit_same, BitVec.and_or_distrib_left]
  simp

theorem exec_clearNack_gives (s : State) :
    Gives (exec .clearNack s) s s.cmd s.eng
      { s.ctl with isr := s.ctl.isr &&& ~~~clearedBits s.params.regif (icrNack s.params.regif) } s.env
      (Memory.read s.mem) [.clearNack] :=
  ⟨clearNack s, rfl, by simp⟩

theorem exec_clearStop_gives (s : State) :
    Gives (exec .clearStop s) s s.cmd s.eng
      { s.ctl with isr := s.ctl.isr &&& ~~~clearedBits s.params.regif (icrStop s.params.regif) } s.env
      (Memory.read s.mem) [.clearStop] :=
  ⟨clearStop s, rfl, by simp⟩

/-- Settles O13: the two clears write the one bit of ICR that names their flag. -/
theorem clearsTouchOneFlag : Obligations.ClearsTouchOneFlag := by
  refine ⟨fun s wf => ⟨⟨_, rfl, fun j => ?_, exec_clearNack_gives s⟩, ⟨_, rfl, fun j => ?_, exec_clearStop_gives s⟩⟩,
    clearedBits_stm32f3⟩
  · rw [clearedBits_nack wf, getLsbD_and_not_bit]
  · rw [clearedBits_stop wf, getLsbD_and_not_bit]

/-! ### The command registers -/

/-- Settles O17: a busy engine takes no command, and the host's write of CMD breaks its contract. -/
theorem commandWhileBusyIsIgnored : Obligations.CommandWhileBusyIsIgnored := by
  intro s busy
  refine ⟨fun sadd raddr => ⟨?_, ?_, ?_⟩, fun w rest first => ?_⟩
  · rw [exec, execByteRead, whenQuiescent_busy _ busy]
  · rw [exec, execBurstRead, whenQuiescent_busy _ busy]
  · rw [exec, execBurstWrite, whenQuiescent_busy _ busy]
  · have breach : commandBreach w (s.setInputs rest) = some .commandWhileBusy := by simp [commandBreach, busy]
    rw [step_input first, runInput, ← setInputs_params s rest, hostWrite_cmd, writeCmd, breach]

/-- The host's word write of the command register at `offset`, as a step. -/
theorem step_writeCommand {s : State} {rest : List Input} {value : Word} {offset : Nat} (small : offset < 16)
    (first : s.inputs = .write (s.params.engineBase + BitVec.ofNat 32 offset) .word value :: rest) :
    step s = writeCommandRegister offset value (s.setInputs rest) := by
  rw [step_input first, runInput, hostWrite, setInputs_params, target_command _ _ small]

/-- The host's word read of the command register at `offset`, as a step. -/
theorem step_readCommand {s : State} {rest : List Input} {offset : Nat} (small : offset < 16)
    (first : s.inputs = .read (s.params.engineBase + BitVec.ofNat 32 offset) .word :: rest) :
    step s = readCommandRegister offset (s.setInputs rest) := by
  rw [step_input first, runInput, hostRead, setInputs_params, target_command _ _ small]

/-- Settles O51: each access is the one of its offset. -/
theorem commandRegistersAreStorage : Obligations.CommandRegistersAreStorage := by
  intro s rest
  refine ⟨fun value first => ?_, fun value first => ?_, fun first => ?_, fun first => ?_, fun first => ?_⟩
  · exact step_writeCommand (offset := 4) (by decide) first
  · exact step_writeCommand (offset := 8) (by decide) first
  · exact step_readCommand (offset := 0) (by decide) (by simpa using first)
  · exact step_readCommand (offset := 4) (by decide) first
  · exact step_readCommand (offset := 8) (by decide) first

/-! ### STATUS -/

section
variable (e : Engine)

theorem statusWord_state : (statusWord e).extractLsb' 0 4 = e.st.code := by
  apply BitVec.eq_of_getLsbD_eq
  intro i hi
  interval_cases i <;> simp [statusWord]

theorem statusWord_busy : (statusWord e).getLsbD 4 = e.st.busy := by simp [statusWord]

theorem statusWord_dataValid : (statusWord e).getLsbD 5 = e.dataValid := by simp [statusWord]

theorem statusWord_phase : (statusWord e).getLsbD 6 = decide (e.phase = .second) := by
  cases h : e.phase <;> simp [statusWord, Phase.code, h]

theorem statusWord_stopCause : (statusWord e).getLsbD 7 = decide (e.stopCause = .abort) := by
  cases h : e.stopCause <;> simp [statusWord, StopCause.code, h]

theorem statusWord_data : (statusWord e).extractLsb' 8 8 = e.data := by
  apply BitVec.eq_of_getLsbD_eq
  intro i hi
  interval_cases i <;> simp [statusWord]

theorem statusWord_idx : (statusWord e).extractLsb' 16 8 = e.idx := by
  apply BitVec.eq_of_getLsbD_eq
  intro i hi
  interval_cases i <;> simp [statusWord]

theorem statusWord_high : (statusWord e).extractLsb' 24 8 = 0 := by
  apply BitVec.eq_of_getLsbD_eq
  intro i hi
  interval_cases i <;> simp [statusWord]

end

/-- The busy states are codes 1 to 5 (10_state.md R22). -/
theorem busy_iff_code (st : EngState) : st.busy = true ↔ 1 ≤ st.code.toNat ∧ st.code.toNat ≤ 5 := by
  cases st <;> decide

/-- Settles O50: the bits of STATUS one by one, then the two accesses at its offset. -/
theorem statusIsAViewOfTheEngine : Obligations.StatusIsAViewOfTheEngine := by
  refine ⟨fun e => ⟨?_, ?_, statusWord_dataValid e, statusWord_phase e, statusWord_stopCause e, statusWord_data e,
    statusWord_idx e, statusWord_high e⟩, fun s rest => ⟨fun value first => ?_, fun first => ?_⟩⟩
  · rw [statusWord_state]
    cases e.st <;> rfl
  · rw [statusWord_busy, statusWord_state]
    exact busy_iff_code e.st
  · exact step_writeCommand (offset := 12) (by decide) first
  · exact step_readCommand (offset := 12) (by decide) first

end Sys2Proof.Machine
end

section
/-! PROOFS. The host's accesses to memory and to the command registers' window, the buffers refused at the write of CMD, and
the Bus Guard's step as four accesses. -/

namespace Sys2Proof.Machine

/-- Settles O49: the two laws of a write to memory. -/
theorem memoryWriteChangesOneByte : Obligations.MemoryWriteChangesOneByte :=
  fun m a c b canonical => ⟨Memory.wf_write m a b canonical, Memory.read_write m a c b canonical⟩

/-! ### The Bus Guard's issue at register level -/

/-- The word of a descriptor written to CR2 is the event of that descriptor (30_encoding.md R90). -/
theorem writeCtrl_ctrlWord {s : State} (wf : s.params.regif.WellFormed) (d : Descriptor) :
    writeCtrl (ctrlWord s.params.regif d) s = writeDescriptor d (ctrlWord s.params.regif d) s := by
  rw [writeCtrl, descriptorOf_ctrlWord wf]

/-- Issue, but for the engine's registers, is the write of the descriptor's word, the read of CR2, and the write of the word
read with START set (41_transaction_engine.md R142, 30_encoding.md R90, R91). -/
theorem issue_eq_accesses {s : State} (wf : s.params.regif.WellFormed) (d : Descriptor) :
    ∃ e, issue d s = (writeStart ((ctrlRead (writeCtrl (ctrlWord s.params.regif d) s)).ctl.cr2 |||
      startBit s.params.regif) (ctrlRead (writeCtrl (ctrlWord s.params.regif d) s))).setEng e := by
  rw [writeCtrl_ctrlWord wf]
  exact ⟨_, rfl⟩

/-- Settles O39: the Guard's step is the poll and then Issue, whose three accesses follow it. -/
theorem guardIsFourAccesses : Obligations.GuardIsFourAccesses := by
  intro s t u1 u2 u3 u4 d wf noInput st free descriptor h h1 h2 h3 h4
  rw [step_busGuard noInput st free descriptor] at h
  cases h; cases h1; cases h2; cases h3; cases h4
  obtain ⟨e, issued⟩ := issue_eq_accesses (s := pollStatus s) wf d
  rw [issued]
  exact ⟨rfl, rfl, rfl, rfl⟩

/-! ### Where a host access goes -/

/-- The bytes of an access are those at its address and up. -/
theorem mem_spanFrom {addr a : Word} {k : Nat} : a ∈ spanFrom addr k ↔ ∃ j, j < k ∧ a = addr + BitVec.ofNat 32 j := by
  induction k generalizing addr with
  | zero => simp [spanFrom]
  | succ k ih =>
    have up : ∀ j, addr + 1 + BitVec.ofNat 32 j = addr + BitVec.ofNat 32 (j + 1) := by
      intro j
      rw [BitVec.add_assoc, BitVec.add_comm 1, BitVec.ofNat_add]
      rfl
    rw [spanFrom, List.mem_cons, ih]
    simp only [up]
    constructor
    · rintro (rfl | ⟨j, hj, rfl⟩)
      · exact ⟨0, by omega, by simp⟩
      · exact ⟨j + 1, by omega, rfl⟩
    · rintro ⟨_ | j, hj, rfl⟩
      · exact .inl (by simp)
      · exact .inr ⟨j, by omega, rfl⟩

/-- A narrow access that begins in the command registers' window goes nowhere (20_memory.md R67). -/
theorem target_narrow (p : Params) {offset : Nat} (h : offset < 16) {size : Size} (narrow : size ≠ .word) :
    target p (p.engineBase + BitVec.ofNat 32 offset) size = .narrow := by
  have reached : touches p.engineBase engineWindow (spanFrom (p.engineBase + BitVec.ofNat 32 offset) size.bytes) = true :=
    List.any_eq_true.2 ⟨_, mem_spanFrom.2 ⟨0, by cases size <;> decide, (BitVec.add_zero _).symm⟩,
      inWindow_offset p.engineBase offset engineWindow h⟩
  rw [target, if_pos reached, if_neg narrow]

/-- An access none of whose bytes is a register goes to memory (20_memory.md R69). -/
theorem target_memory {p : Params} {addr : Word} {size : Size}
    (clear : ∀ a ∈ spanFrom addr size.bytes, inRegisters p a.toNat = false) :
    target p addr size = .memory (spanFrom addr size.bytes) := by
  have outside : ∀ a ∈ spanFrom addr size.bytes,
      inWindow p.engineBase engineWindow a = false ∧ inWindow p.regBase p.regif.window a = false := by
    intro a ha
    simpa [inRegisters] using clear a ha
  have noCommand : touches p.engineBase engineWindow (spanFrom addr size.bytes) = false :=
    List.any_eq_false.2 fun a ha => by simp [outside a ha]
  have noController : touches p.regBase p.regif.window (spanFrom addr size.bytes) = false :=
    List.any_eq_false.2 fun a ha => by simp [outside a ha]
  simp [target, noCommand, noController]

/-! ### Narrow and unaligned accesses -/

/-- No command register stands at an offset that is no multiple of four (10_state.md R30). -/
theorem commandRegister_unaligned {offset : Nat} (h : offset % 4 ≠ 0) (value : Word) (s : State) :
    writeCommandRegister offset value s = .refused .narrowOrUnaligned ∧
      readCommandRegister offset s = .refused .narrowOrUnaligned := by
  have h0 : offset ≠ 0x0 := by omega
  have h4 : offset ≠ 0x4 := by omega
  have h8 : offset ≠ 0x8 := by omega
  have hC : offset ≠ 0xC := by omega
  simp [writeCommandRegister, readCommandRegister, commandReads, h0, h4, h8, hC]

/-- Settles O52: a word access goes to the offset, where no register stands, and a narrower one goes nowhere. -/
theorem narrowRegisterAccessIsRefused : Obligations.NarrowRegisterAccessIsRefused := by
  intro s rest offset size small bad
  by_cases word : size = .word
  · subst word
    have unaligned := commandRegister_unaligned (bad.resolve_left (by simp))
    exact ⟨fun value first => (step_writeCommand small first).trans (unaligned value _).1,
      fun first => (step_readCommand small first).trans (unaligned 0 _).2⟩
  · have narrow := target_narrow s.params small word
    refine ⟨fun value first => ?_, fun first => ?_⟩
    · rw [step_input first, runInput, hostWrite, setInputs_params, narrow]
    · rw [step_input first, runInput, hostRead, setInputs_params, narrow]

/-! ### The borrowed buffer -/

/-- The buffer's own addresses are in it (20_memory.md R61). -/
theorem inBuffer_bufferAddr (p : Params) (e : Engine) {i : Nat} (h : i < e.n.toNat) :
    inBuffer p e (bufferAddr p e i) = true := by
  have positive : 0 < 2 ^ p.addrW := Nat.two_pow_pos _
  have below : e.base.toNat % 2 ^ p.addrW < 2 ^ p.addrW := Nat.mod_lt _ positive
  have index : (bufferAddr p e i + (2 ^ p.addrW - e.base.toNat % 2 ^ p.addrW)) % 2 ^ p.addrW = i % 2 ^ p.addrW :=
    calc (bufferAddr p e i + (2 ^ p.addrW - e.base.toNat % 2 ^ p.addrW)) % 2 ^ p.addrW
      _ = (e.base.toNat % 2 ^ p.addrW + i + (2 ^ p.addrW - e.base.toNat % 2 ^ p.addrW)) % 2 ^ p.addrW := by
        rw [bufferAddr, Nat.mod_add_mod, Nat.add_assoc, Nat.add_assoc, Nat.mod_add_mod]
      _ = (i + 2 ^ p.addrW) % 2 ^ p.addrW := by congr 1; omega
      _ = i % 2 ^ p.addrW := Nat.add_mod_right _ _
  rw [inBuffer, index, decide_eq_true_eq]
  exact Nat.lt_of_le_of_lt (Nat.mod_le _ _) h

/-- The running burst borrows every byte of its buffer (20_memory.md R62). -/
theorem borrowed_bufferAddr (p : Params) {e : Engine} (busy : e.st.busy = true)
    (burst : e.op = .burstRead ∨ e.op = .burstWrite) {i : Nat} (h : i < e.n.toNat) :
    borrowed p e (bufferAddr p e i) = true := by
  rcases burst with op | op <;> simp [borrowed, busy, op, inBuffer_bufferAddr p e h]

/-- An access inside the buffer port that reaches a borrowed byte is stopped. -/
theorem memoryStop_borrowed {span : List Word} {s : State} {a : Word} (ha : a ∈ span)
    (lent : borrowed s.params s.eng a.toNat = true) (inPort : ∀ a ∈ span, a.toNat < 2 ^ s.params.addrW) :
    memoryStop span s = some (.refused .bufferBorrowed) := by
  have inside : ¬ (span.any fun a => decide (2 ^ s.params.addrW ≤ a.toNat)) = true := by simpa using inPort
  rw [memoryStop, if_neg inside, if_pos (List.any_eq_true.2 ⟨a, ha, lent⟩)]

/-- Settles O53: the access goes to memory, and one of its bytes is borrowed. -/
theorem borrowedBufferIsRefused : Obligations.BorrowedBufferIsRefused := by
  intro s rest addr size k i busy burst hi _ hk reaches free
  have each : ∀ a ∈ spanFrom addr size.bytes, a.toNat < 2 ^ s.params.addrW ∧ inRegisters s.params a.toNat = false := by
    intro a ha
    obtain ⟨j, hj, rfl⟩ := mem_spanFrom.1 ha
    exact free j hj
  have goes : target s.params addr size = .memory (spanFrom addr size.bytes) := target_memory fun a ha => (each a ha).2
  have stop : memoryStop (spanFrom addr size.bytes) (s.setInputs rest) = some (.refused .bufferBorrowed) := by
    refine memoryStop_borrowed (mem_spanFrom.2 ⟨k, hk, rfl⟩) ?_ fun a ha => (each a ha).1
    rw [reaches]
    exact borrowed_bufferAddr s.params busy burst hi
  refine ⟨fun value first => ?_, fun first => ?_⟩
  · rw [step_input first, runInput, hostWrite, setInputs_params, goes]
    simp [stop]
  · rw [step_input first, runInput, hostRead, setInputs_params, goes]
    simp [stop]

/-! ### Buffers refused at the write of CMD -/

/-- The contract of a write of CMD asks nothing of the pending inputs. -/
@[simp] theorem commandBreach_setInputs (w : Word) (s : State) (l : List Input) :
    commandBreach w (s.setInputs l) = commandBreach w s := rfl

/-- A write of CMD that breaks the host's contract is refused. -/
theorem step_commandBreach {s : State} {w : Word} {rest : List Input} {r : Refusal}
    (first : s.inputs = .write s.params.engineBase .word w :: rest)
    (breach : commandBreach w s = some r) : step s = .refused r := by
  rw [step_input first, runInput, ← setInputs_params s rest, hostWrite_cmd, writeCmd, commandBreach_setInputs, breach]

/-- In a quiescent state the write of a burst whose count is one that starts breaks the contract by its buffer alone
(20_memory.md R69, U14). -/
theorem commandBreach_burst {s : State} {w : Word} {i : Instr} {limit : Int} (quiescent : s.eng.st.busy = false)
    (decoded : decodeCmd w = .ok i) (bounded : bufferLimit i = some limit) (low : 1 ≤ s.len.toInt)
    (high : s.len.toInt ≤ limit) :
    commandBreach w s =
      if 2 ^ s.params.addrW < s.buf.toNat % 2 ^ s.params.addrW + s.len.toNat then some .bufferWraps
      else if overlapsRegisters s.params (s.buf.toNat % 2 ^ s.params.addrW) s.len.toNat then some .bufferOverlapsRegisters
      else none := by
  have starts : ¬ (s.len.toInt ≤ 0 ∨ limit < s.len.toInt) := by omega
  simp [commandBreach, quiescent, decoded, bounded, bufferBreach, starts]

/-- A byte of the buffer is a register. -/
theorem overlapsRegisters_true {p : Params} {buf n : Nat} :
    overlapsRegisters p (buf % 2 ^ p.addrW) n = true ↔ ∃ k, k < n ∧ inRegisters p ((buf + k) % 2 ^ p.addrW) = true := by
  simp [overlapsRegisters]

/-- Settles O18: the burst's count starts, so its buffer decides, the wrap first. -/
theorem refusedBuffersAreRefused : Obligations.RefusedBuffersAreRefused := by
  intro s w rest sadd raddr first quiescent low burst
  obtain ⟨i, limit, decoded, bounded, high⟩ :
      ∃ i limit, decodeCmd w = .ok i ∧ bufferLimit i = some limit ∧ s.len.toInt ≤ limit := by
    rcases burst with ⟨decoded, high⟩ | ⟨decoded, high⟩
    · exact ⟨_, readLimit, decoded, rfl, high⟩
    · exact ⟨_, writeLimit, decoded, rfl, high⟩
  have breach := commandBreach_burst quiescent decoded bounded low high
  refine ⟨fun wraps => step_commandBreach first ?_, fun fits overlap => step_commandBreach first ?_⟩
  · rw [breach, if_pos wraps]
  · rw [breach, if_neg (Nat.not_lt.2 fits), if_pos (overlapsRegisters_true.2 overlap)]

end Sys2Proof.Machine
end

section
/-! PROOFS. The command word: R83's decoding by masks, and its fields put together again. -/

namespace Sys2Proof

/-! ### The fields of a command word under its masks -/

/-- A field that a mask covers reads the same through the mask. -/
theorem extract_and_mask (w m : Word) (p n : Nat) (covers : m.extractLsb' p n = BitVec.allOnes n) :
    (w &&& m).extractLsb' p n = w.extractLsb' p n := by
  rw [BitVec.extractLsb'_and, covers, BitVec.and_allOnes]

/-- The reserved fields of R80 are the bits of one mask. -/
theorem reserved_iff (w : Word) :
    (w.extractLsb' 24 8 ≠ 0 ∨ w.extractLsb' 15 1 ≠ 0 ∨ w.extractLsb' 4 4 ≠ 0) ↔ w &&& 0xFF0080F0 ≠ 0 := by
  constructor
  · intro set masked
    have clear : ∀ p n, (0xFF0080F0 : Word).extractLsb' p n = BitVec.allOnes n → w.extractLsb' p n = 0 := by
      intro p n covers
      rw [← extract_and_mask w _ p n covers, masked]
      exact BitVec.extractLsb'_zero
    exact set.elim (· (clear 24 8 rfl)) (·.elim (· (clear 15 1 rfl)) (· (clear 4 4 rfl)))
  · intro masked
    by_contra clear
    simp only [ne_eq, not_or, not_not] at clear
    obtain ⟨high, middle, low⟩ := clear
    have fields : w &&& (0xFF0080F0 : Word) = (w.extractLsb' 24 8).setWidth 32 <<< 24 |||
        (w.extractLsb' 15 1).setWidth 32 <<< 15 ||| (w.extractLsb' 4 4).setWidth 32 <<< 4 := by
      apply BitVec.eq_of_getLsbD_eq
      intro i hi
      interval_cases i <;> simp
    rw [high, middle, low] at fields
    exact masked fields

/-- OP is the four low bits. -/
theorem op_iff (w : Word) (op : BitVec 4) : w.extractLsb' 0 4 = op ↔ w &&& 0xF = op.setWidth 32 := by
  have low : w &&& 0xF = (w.extractLsb' 0 4).setWidth 32 := by
    apply BitVec.eq_of_getLsbD_eq
    intro i hi
    interval_cases i <;> simp
  rw [low]
  exact ⟨congrArg _, fun same => by simpa using congrArg (BitVec.setWidth 4) same⟩

/-- Decoding of the command word, R83, by its masks. -/
theorem decodeCmd_eq (w : Word) :
    decodeCmd w =
      if w &&& 0xFF0080F0 ≠ 0 then .error .reservedBits
      else if w &&& 0xF = 1 then .ok (.byteRead ((w >>> 8).setWidth 7) ((w >>> 16).setWidth 8))
      else if w &&& 0xF = 2 then .ok (.burstRead ((w >>> 8).setWidth 7) ((w >>> 16).setWidth 8))
      else if w &&& 0xF = 3 then .ok (.burstWrite ((w >>> 8).setWidth 7) ((w >>> 16).setWidth 8))
      else .error .reservedOp := by
  simp only [decodeCmd, reserved_iff, op_iff]
  rfl

/-- Settles O2: R83's tests are those of the masks, one after the other. -/
theorem commandDecodesByItsFields : Obligations.CommandDecodesByItsFields := by
  intro w
  rw [decodeCmd_eq]
  refine ⟨?_, fun assigned => ⟨fun op => ?_, fun op => ?_, fun op => ?_⟩⟩
  · rintro (reserved | ⟨not1, not2, not3⟩)
    · exact ⟨_, if_pos reserved⟩
    · rw [if_neg not1, if_neg not2, if_neg not3]
      split
      · exact ⟨_, rfl⟩
      · exact ⟨_, rfl⟩
  · rw [if_neg (not_not.2 assigned), op]; rfl
  · rw [if_neg (not_not.2 assigned), op]; rfl
  · rw [if_neg (not_not.2 assigned), op]; rfl

/-- A word without reserved bits is its three fields. -/
theorem cmdWord_fields {w : Word} {op : BitVec 4} (assigned : w &&& 0xFF0080F0 = 0) (low : w &&& 0xF = op.setWidth 32) :
    cmdWord op ((w >>> 8).setWidth 7) ((w >>> 16).setWidth 8) = w := by
  have fields : cmdWord op ((w >>> 8).setWidth 7) ((w >>> 16).setWidth 8) = w &&& 0x00FF7F0F := by
    rw [← (op_iff w op).2 low]
    apply BitVec.eq_of_getLsbD_eq
    intro i hi
    interval_cases i <;> simp [cmdWord]
  calc cmdWord op ((w >>> 8).setWidth 7) ((w >>> 16).setWidth 8)
    _ = w &&& 0x00FF7F0F ||| w &&& 0xFF0080F0 := by rw [fields, assigned]; exact BitVec.or_zero.symm
    _ = w &&& (0x00FF7F0F ||| 0xFF0080F0) := (BitVec.and_or_distrib_left).symm
    _ = w := BitVec.and_allOnes

/-- Settles O3: what decodes has no reserved bit, so it is put together from its fields again. -/
theorem decodedCommandEncodesBack : Obligations.DecodedCommandEncodesBack := by
  intro b w i decoded
  rw [decodeCmd_eq] at decoded
  split at decoded
  · cases decoded
  next assigned =>
    rw [not_not] at assigned
    split at decoded
    next op => cases decoded; exact congrArg Code.cmd (cmdWord_fields assigned op)
    split at decoded
    next op => cases decoded; exact congrArg Code.cmd (cmdWord_fields assigned op)
    split at decoded
    next op => cases decoded; exact congrArg Code.cmd (cmdWord_fields assigned op)
    · cases decoded

end Sys2Proof
end

section
/-! PROOFS. The rows of R99: which keys match them, that no two meet in a well-formed binding, and so the round trip of every
code. -/

namespace Sys2Proof

/-! ### Rows that meet no key in common -/

/-- No key matches both rows. -/
def KeyRow.Apart (r q : KeyRow) : Prop := ∀ k, ¬ (r.hits k = true ∧ q.hits k = true)

theorem KeyRow.Apart.symm {r q : KeyRow} (h : r.Apart q) : q.Apart r := fun k both => h k both.symm

/-- Every key is a W, an OFFSET and a VALUE, so rows are apart when no such three match both. -/
theorem KeyRow.apart_of_fields {r q : KeyRow}
    (h : ∀ w o x, r.hits (accessKey w o x) = true → q.hits (accessKey w o x) = true → False) : r.Apart q := by
  intro k
  rw [key_eq_accessKey k]
  exact fun ⟨hr, hq⟩ => h _ _ _ hr hq

theorem readRow_apart_writeRow (o q : Byte) (m v : Word) : (readRow o).Apart (writeRow q m v) :=
  KeyRow.apart_of_fields fun _ _ _ read write => by
    rw [readRow_hits] at read
    rw [writeRow_hits] at write
    exact absurd (read.1.symm.trans write.1) (by decide)

theorem readRow_apart_readRow {o q : Byte} (h : o ≠ q) : (readRow o).Apart (readRow q) :=
  KeyRow.apart_of_fields fun _ _ _ first second => by
    rw [readRow_hits] at first second
    exact h (first.2.symm.trans second.2)

theorem writeRow_apart_offset {o q : Byte} (h : o ≠ q) (m n v u : Word) : (writeRow o m v).Apart (writeRow q n u) :=
  KeyRow.apart_of_fields fun _ _ _ first second => by
    rw [writeRow_hits] at first second
    exact h (first.2.1.symm.trans second.2.1)

theorem writeRow_apart_value {v u : Word} (h : v ≠ u) (o : Byte) (m : Word) : (writeRow o m v).Apart (writeRow o m u) :=
  KeyRow.apart_of_fields fun _ _ _ first second => by
    rw [writeRow_hits] at first second
    exact h (first.2.2.symm.trans second.2.2)

/-! ### What a well-formed binding keeps apart -/

/-- START and STOP are two bits of CR2. -/
theorem Binding.WellFormed.triggers {b : Binding} (wf : b.WellFormed) :
    0#32 ≠ startBit b ∧ 0#32 ≠ stopBit b ∧ startBit b ≠ stopBit b := by
  have start : b.cr2.start < 32 := wf.controlFits (b.cr2.start, 1) (by simp [ControlBits.fields])
  have stop : b.cr2.stop < 32 := wf.controlFits (b.cr2.stop, 1) (by simp [ControlBits.fields])
  have apart : b.cr2.start ≠ b.cr2.stop := by
    have fields := wf.control
    simp only [ControlBits.fields, List.pairwise_cons, List.mem_cons, forall_eq_or_imp, Apart] at fields
    omega
  exact ⟨(bit_ne_zero start).symm, (bit_ne_zero stop).symm, bit_ne start apart⟩

/-- The registers the accesses name stand at five offsets. -/
theorem Binding.WellFormed.accessed {b : Binding} (wf : b.WellFormed) :
    [b.offset.isr, b.offset.cr2, b.offset.txdr, b.offset.rxdr, b.offset.icr].Nodup := by
  have offsets := wf.offsets
  simp only [Offsets.all, List.nodup_cons, List.mem_cons, not_or] at offsets ⊢
  grind

/-- In a well-formed binding the nine rows of R99 are apart: any two are a read and a write, or of two registers, or two
values of one register under one mask. -/
theorem keyRows_apart {b : Binding} (wf : b.WellFormed) : (keyRows b).Pairwise KeyRow.Apart := by
  obtain ⟨start, stop, startStop⟩ := wf.triggers
  have clears : icrNack b ≠ icrStop b := bit_ne wf.clearsFit.1 wf.clears.1
  have offsets := wf.accessed
  simp only [List.nodup_cons, List.mem_cons, not_or] at offsets
  have writeRead (o m v q) := (readRow_apart_writeRow o q m v).symm
  simp [keyRows, rowPollStatus, rowCtrlRead, rowWriteCtrl, rowTriggerStart, rowTriggerStop, rowTxWrite, rowRxRead,
    rowClearNack, rowClearStop, readRow_apart_writeRow, writeRead, readRow_apart_readRow, writeRow_apart_offset,
    writeRow_apart_value, start, stop, startStop, clears, offsets]

/-- Settles O5: the layout is well-formed, and its rows are literals. -/
theorem defaultBindingMatchesTable : Obligations.DefaultBindingMatchesTable :=
  ⟨wellFormed_stm32f3, by decide⟩

/-! ### Decoding a key by its row -/

/-- The rows of R99, each with the instruction it gives a key. -/
def keyMeanings (b : Binding) : List (KeyRow × (Key → Instr)) :=
  [(rowPollStatus b, fun _ => .pollStatus), (rowCtrlRead b, fun _ => .ctrlRead),
    (rowWriteCtrl b, fun k => .writeCtrl (keyValue k)), (rowTriggerStart b, fun k => .triggerStart (keyValue k)),
    (rowTriggerStop b, fun k => .triggerStop (keyValue k)),
    (rowTxWrite b, fun k => .txWrite ((keyValue k).extractLsb' b.txData 8)), (rowRxRead b, fun _ => .rxRead),
    (rowClearNack b, fun _ => .clearNack), (rowClearStop b, fun _ => .clearStop)]

/-- The instruction of the first row that matches. -/
def firstMeaning (k : Key) : List (KeyRow × (Key → Instr)) → Except Reject Instr
  | [] => .error .noSuchAccess
  | (r, f) :: rest => if r.hits k then .ok (f k) else firstMeaning k rest

theorem keyMeanings_rows (b : Binding) : (keyMeanings b).map Prod.fst = keyRows b := rfl

theorem decodeKey_eq_firstMeaning (b : Binding) (k : Key) : decodeKey b k = firstMeaning k (keyMeanings b) := rfl

theorem firstMeaning_ok_iff (k : Key) (l : List (KeyRow × (Key → Instr))) :
    (∃ i, firstMeaning k l = .ok i) ↔ ∃ r ∈ l.map Prod.fst, r.hits k = true := by
  induction l with
  | nil => simp [firstMeaning]
  | cons m rest ih =>
    obtain ⟨r, f⟩ := m
    cases h : r.hits k with
    | true => simp [firstMeaning, h]
    | false => simpa [firstMeaning, h] using ih

/-- Among rows that are apart, the one that matches is the first that does. -/
theorem firstMeaning_of_hits {k : Key} {l : List (KeyRow × (Key → Instr))} (apart : (l.map Prod.fst).Pairwise KeyRow.Apart)
    {r : KeyRow} {f : Key → Instr} (row : (r, f) ∈ l) (hits : r.hits k = true) : firstMeaning k l = .ok (f k) := by
  induction l with
  | nil => cases row
  | cons m rest ih =>
    obtain ⟨q, g⟩ := m
    rw [List.map_cons, List.pairwise_cons] at apart
    obtain ⟨first, others⟩ := apart
    rcases List.mem_cons.1 row with here | later
    · cases here
      exact if_pos hits
    · have missed : ¬ q.hits k = true := fun hq => first r (List.mem_map_of_mem later) k ⟨hq, hits⟩
      rw [firstMeaning, if_neg missed, ih others later]

/-- In a well-formed binding a key decodes by the row it matches, the `n`th say. -/
theorem decodeKey_of_hits {b : Binding} (wf : b.WellFormed) (n : Nat) {r : KeyRow} {f : Key → Instr} {k : Key}
    {i : Instr} (row : (keyMeanings b)[n]? = some (r, f)) (hits : r.hits k = true) (gives : f k = i) :
    decodeKey b k = .ok i := by
  rw [decodeKey_eq_firstMeaning, ← gives]
  exact firstMeaning_of_hits (keyMeanings_rows b ▸ keyRows_apart wf) (List.mem_of_getElem? row) hits

/-- Settles O4: the rows are apart, and a key decodes by the first row it matches. -/
theorem accessRowsDoNotOverlap : Obligations.AccessRowsDoNotOverlap := by
  refine fun b => ⟨keyRows_apart, fun k => ?_⟩
  rw [decodeKey_eq_firstMeaning, ← keyMeanings_rows]
  exact firstMeaning_ok_iff k (keyMeanings b)

/-! ### The round trip -/

/-- A command word decodes by its OP. -/
theorem decodeCmd_cmdWord (op : BitVec 4) (sadd : BitVec 7) (raddr : Byte) :
    decodeCmd (cmdWord op sadd raddr) =
      if op = 1 then .ok (.byteRead sadd raddr)
      else if op = 2 then .ok (.burstRead sadd raddr)
      else if op = 3 then .ok (.burstWrite sadd raddr)
      else .error .reservedOp := by
  have assigned : cmdWord op sadd raddr &&& 0xFF0080F0 = 0 := by
    apply BitVec.eq_of_getLsbD_eq
    intro i hi
    interval_cases i <;> simp [cmdWord]
  rw [decodeCmd, if_neg ((reserved_iff _).not_left.2 assigned), cmdWord_op, cmdWord_sadd, cmdWord_raddr]
  rfl

open Laws.EncodeMatchesTable in
/-- The code of a well-formed instruction decodes to it: it has the bits its row asks for. -/
theorem decode_encode {b : Binding} (wf : b.WellFormed) {i : Instr} (admitted : i.wellFormed b = true) :
    decode b (encode b i) = .ok i := by
  cases i with
  | byteRead sadd raddr => exact decodeCmd_cmdWord 1 sadd raddr
  | burstRead sadd raddr => exact decodeCmd_cmdWord 2 sadd raddr
  | burstWrite sadd raddr => exact decodeCmd_cmdWord 3 sadd raddr
  | pollStatus => exact decodeKey_of_hits wf 0 rfl (pollStatus b admitted) rfl
  | ctrlRead => exact decodeKey_of_hits wf 1 rfl (ctrlRead b admitted) rfl
  | writeCtrl value => exact decodeKey_of_hits wf 2 rfl (writeCtrl value b admitted) (by rw [keyValue_accessKey])
  | triggerStart value => exact decodeKey_of_hits wf 3 rfl (triggerStart value b admitted) (by rw [keyValue_accessKey])
  | triggerStop value => exact decodeKey_of_hits wf 4 rfl (triggerStop value b admitted) (by rw [keyValue_accessKey])
  | txWrite x =>
    refine decodeKey_of_hits wf 5 rfl (txWrite x b admitted) ?_
    rw [keyValue_accessKey, txWord, extract_shiftLeft_byte x b.txData wf.dataFits.2]
  | rxRead => exact decodeKey_of_hits wf 6 rfl (rxRead b admitted) rfl
  | clearNack => exact decodeKey_of_hits wf 7 rfl (clearNack b admitted) rfl
  | clearStop => exact decodeKey_of_hits wf 8 rfl (clearStop b admitted) rfl

/-- The bytes of a code decode as the code does. -/
theorem decodeBytes_bytes (b : Binding) (c : Code) : decodeBytes b c.bytes = decode b c := by
  cases c with
  | cmd w =>
    refine congrArg decodeCmd (BitVec.eq_of_getLsbD_eq fun i hi => ?_)
    interval_cases i <;> simp
  | access k =>
    have oneBit : ¬ 2 ≤ ((k.extractLsb' 40 1).setWidth 8).toNat := by
      have := (k.extractLsb' 40 1).isLt
      simp only [BitVec.toNat_setWidth]
      omega
    refine (if_neg oneBit).trans (congrArg (decodeKey b) (BitVec.eq_of_getLsbD_eq fun i hi => ?_))
    interval_cases i <;> simp

/-- Settles O1: the code decodes by the row it matches, and its bytes as the code does. -/
theorem decodeOfEncodeIsIdentity : Obligations.DecodeOfEncodeIsIdentity :=
  fun b i wf admitted => ⟨decode_encode wf admitted, (decodeBytes_bytes b (encode b i)).trans (decode_encode wf admitted)⟩

end Sys2Proof
end

section
/-! PROOFS. The register-interface accesses: the word WRITE_CTRL carries, the two triggers, the poll, and the data
registers. -/

namespace Sys2Proof.Machine

/-! ### What each access gives -/

theorem exec_pollStatus_gives (s : State) :
    Gives (exec .pollStatus s) s s.cmd s.eng { s.ctl with isr := nextStatus s.env } (afterStatus s.env)
      (Memory.read s.mem) [.poll (polled s)] :=
  ⟨pollStatus s, rfl, by simp⟩

theorem exec_ctrlRead_gives (s : State) :
    Gives (exec .ctrlRead s) s s.cmd s.eng { s.ctl with cr2 := nextCtrl s.env } (afterCtrl s.env) (Memory.read s.mem)
      [.ctrlRead (nextCtrl s.env)] :=
  ⟨ctrlRead s, rfl, by simp⟩

theorem exec_writeCtrl_gives (value : Word) (s : State) :
    Gives (exec (.writeCtrl value) s) s s.cmd s.eng { s.ctl with cr2 := value } s.env (Memory.read s.mem)
      [.writeCtrl (descriptorOf s.params.regif value)] :=
  ⟨writeCtrl value s, rfl, by simp⟩

theorem exec_triggerStart_gives (value : Word) (s : State) :
    Gives (exec (.triggerStart value) s) s s.cmd s.eng { s.ctl with cr2 := value } s.env (Memory.read s.mem) [.start] :=
  ⟨writeStart value s, rfl, by simp⟩

theorem exec_triggerStop_gives (value : Word) (s : State) :
    Gives (exec (.triggerStop value) s) s s.cmd s.eng { s.ctl with cr2 := value } s.env (Memory.read s.mem) [.stop] :=
  ⟨writeStop value s, rfl, by simp⟩

theorem exec_txWrite_gives (x : Byte) (s : State) :
    Gives (exec (.txWrite x) s) s s.cmd s.eng { s.ctl with txdr := txWord s.params.regif x } s.env (Memory.read s.mem)
      [.tx x] :=
  ⟨txWrite x s, rfl, by simp⟩

theorem exec_rxRead_gives (s : State) :
    Gives (exec .rxRead s) s s.cmd s.eng { s.ctl with rxdr := nextRx s.env } (afterRx s.env) (Memory.read s.mem)
      [.rx (received s)] :=
  ⟨rxRead s, rfl, by simp⟩

/-! ### The CR2 word of a descriptor -/

/-- A field placed at bit `p` shows nothing outside it. -/
theorem getLsbD_outside {n : Nat} (x : BitVec n) {p j : Nat} (h : j < p ∨ p + n ≤ j) :
    (x.setWidth 32 <<< p).getLsbD j = false := by
  rcases h with below | above
  · simp [below]
  · simp [BitVec.getLsbD_of_ge x (j - p) (by omega)]

/-- The CR2 word of a descriptor has no bit outside its four fields (30_encoding.md R90). -/
theorem getLsbD_ctrlWord_outside (b : Binding) (d : Descriptor) {j : Nat}
    (h : ∀ f ∈ [(b.cr2.sadd, 7), (b.cr2.nbytes, 8), (b.cr2.rdWrn, 1), (b.cr2.autoEnd, 1)], j < f.1 ∨ f.1 + f.2 ≤ j) :
    (ctrlWord b d).getLsbD j = false := by
  simp only [List.mem_cons, List.not_mem_nil, or_false, forall_eq_or_imp, forall_eq] at h
  obtain ⟨sadd, nbytes, rdWrn, autoEnd⟩ := h
  simp only [ctrlWord, BitVec.getLsbD_or, getLsbD_outside _ sadd, getLsbD_outside _ nbytes, getLsbD_outside _ rdWrn,
    getLsbD_outside _ autoEnd, Bool.or_false]

theorem descriptorOf_dir (b : Binding) (w : Word) : w.getLsbD b.cr2.rdWrn = decide ((descriptorOf b w).dir = .read) := by
  cases h : w.getLsbD b.cr2.rdWrn <;> simp [descriptorOf, h]

theorem descriptorOf_em (b : Binding) (w : Word) :
    w.getLsbD b.cr2.autoEnd = decide ((descriptorOf b w).em = .autoEnd) := by
  cases h : w.getLsbD b.cr2.autoEnd <;> simp [descriptorOf, h]

/-- R90's word in the default binding. -/
theorem ctrlWord_stm32f3 (d : Descriptor) :
    ctrlWord .stm32f3 d =
      (if d.em = .autoEnd then 0x02000000 else 0) ||| d.count.setWidth 32 <<< 16 |||
        (if d.dir = .read then 0x00000400 else 0) ||| d.sadd.setWidth 32 <<< 1 := by
  obtain ⟨sadd, dir, count, em⟩ := d
  cases dir <;> cases em <;> simp [ctrlWord, Binding.stm32f3, dirBit, autoEndBit]

/-- Settles O9: the fields are those `descriptorOf` reads, which give the descriptor back. -/
theorem writeCtrlProgramsDescriptor : Obligations.WriteCtrlProgramsDescriptor := by
  intro s d b
  refine ⟨fun wf => ?_, ctrlWord_stm32f3 d⟩
  have back : descriptorOf b (ctrlWord b d) = d := descriptorOf_ctrlWord wf d
  refine ⟨congrArg Descriptor.sadd back, congrArg Descriptor.count back, ?_, ?_,
    fun j outside => getLsbD_ctrlWord_outside b d outside, ?_⟩
  · rw [descriptorOf_dir, back]
  · rw [descriptorOf_em, back]
  · have gives := exec_writeCtrl_gives (ctrlWord b d) s
    rwa [back] at gives

/-- Settles O10: each access by itself, and the triggers are the read and then the write by definition. -/
theorem triggersAreReadThenWrite : Obligations.TriggersAreReadThenWrite := by
  refine ⟨fun s => ⟨exec_ctrlRead_gives s, (exec_writeCtrl_gives · s), (exec_triggerStart_gives · s),
    (exec_triggerStop_gives · s), fun u read => ?_⟩, by decide, by decide⟩
  cases read
  simp [exec, execTriggerStart, execTriggerStop, triggerStart, triggerStop]

/-! ### The flags of a poll, and the data registers -/

/-- A bit of a word is set when its mask finds it. -/
theorem getLsbD_iff_mask (w : Word) {n : Nat} (h : n < 32) : w.getLsbD n = true ↔ w &&& bit n ≠ 0 := by
  constructor
  · intro isSet masked
    have at_n : (w &&& bit n).getLsbD n = false := by rw [masked]; exact BitVec.getLsbD_zero
    rw [BitVec.getLsbD_and, isSet, getLsbD_bit] at at_n
    simp [h] at at_n
  · intro masked
    by_contra clear
    refine masked (BitVec.eq_of_getLsbD_eq fun j hj => ?_)
    by_cases here : j = n
    · simp [here, clear]
    · simp [getLsbD_bit, here]

/-- Settles O11: the poll's flags, and by default the masks of the eight bits R97 names. -/
theorem pollReadsStatusFlags : Obligations.PollReadsStatusFlags :=
  ⟨exec_pollStatus_gives, fun isr =>
    ⟨getLsbD_iff_mask isr (n := 15) (by decide), getLsbD_iff_mask isr (n := 1) (by decide),
      getLsbD_iff_mask isr (n := 2) (by decide), getLsbD_iff_mask isr (n := 3) (by decide),
      getLsbD_iff_mask isr (n := 4) (by decide), getLsbD_iff_mask isr (n := 5) (by decide),
      getLsbD_iff_mask isr (n := 6) (by decide), getLsbD_iff_mask isr (n := 7) (by decide)⟩⟩

/-- Settles O12: the two accesses of the data registers. -/
theorem dataRegisterAccesses : Obligations.DataRegisterAccesses :=
  ⟨fun s => ⟨(exec_txWrite_gives · s), exec_rxRead_gives s⟩, rfl, rfl⟩

end Sys2Proof.Machine
end

section
/-! PROOFS. The host's side: an unassigned word, WAIT and the taking of a result, and the call forms. -/

namespace Sys2Proof.Machine

/-- The accept of a word that decodes to no command, from a quiescent state (42_sequencer_and_operations.md R180, R193). -/
theorem acceptIllegal_gives (w : Word) {s : State} (quiescent : s.eng.st.busy = false) :
    Gives (.next (acceptIllegal w s)) s w
      { s.eng with st := .illegal, idx := 0, phase := .first, stopCause := .complete, dataValid := false }
      s.ctl s.env (Memory.read s.mem) [] := by
  rw [acceptIllegal, whenQuiescent_quiescent _ quiescent]
  exact ⟨_, rfl, by simp [clearResult]⟩

/-- A word that decodes to no command runs as the accept of an illegal word. -/
theorem runCode_illegal {w : Word} {r : Reject} (s : State) (rejected : decodeCmd w = .error r) :
    runCode (.cmd w) s = .next (acceptIllegal w s) := by
  simp [runCode, decode, rejected]

/-- Settles O16: an unassigned word decodes to nothing, so it breaks no contract and is accepted as illegal. -/
theorem illegalWordEndsInIllegal : Obligations.IllegalWordEndsInIllegal := by
  intro s w rest first quiescent unassigned
  obtain ⟨r, rejected⟩ := (commandDecodesByItsFields w).1 unassigned
  have admitted : commandBreach w (s.setInputs rest) = none := commandBreach_illegal rejected quiescent
  rw [step_input first, runInput, ← setInputs_params s rest, hostWrite_cmd, writeCmd, admitted]
  simp only [runCode_illegal _ rejected]
  exact acceptIllegal_gives w quiescent

/-! ### Ticks, WAIT and the taking of a result -/

/-- The engine's step with other inputs pending: the next state is the same but for them. -/
theorem engineStep_withInputs {s t : State} (l : List Input) (h : step (s.setInputs []) = .next t) :
    engineStep (s.setInputs l) = .next (t.setInputs l) := by
  rw [step_no_input rfl] at h
  have moved := engineStep_setInputs (s.setInputs []) l
  rwa [h] at moved

/-- Settles O56: a tick and a WAIT while busy are the engine's own step, and a WAIT when quiescent is a read of STATUS. -/
theorem waitReadsStatusWhenQuiescent : Obligations.WaitReadsStatusWhenQuiescent := by
  intro s rest
  refine ⟨fun first t h => ?_, fun first quiescent => ?_, fun first busy t h => ?_⟩
  · rw [step_input first]
    exact engineStep_withInputs rest h
  · rw [step_input first]
    exact if_neg (by simp [quiescent])
  · rw [step_input first]
    exact (if_pos busy).trans (engineStep_withInputs (.wait :: rest) h)

/-- Settles O55: the taking of the result tests DATA_VALID alone. -/
theorem resultIsTakenWhenValid : Obligations.ResultIsTakenWhenValid := by
  intro s rest first
  rw [step_input first]
  exact ⟨fun valid => if_pos valid, fun invalid => if_neg (by simp [invalid])⟩

/-! ### The call forms -/

/-- The command word as a sum: its fields share no bit (30_encoding.md R80, R86). -/
theorem cmdWord_eq_ofNat (op : BitVec 4) {slave addr : Nat} (hs : slave < 128) (ha : addr < 256) :
    cmdWord op (BitVec.ofNat 7 slave) (BitVec.ofNat 8 addr) =
      BitVec.ofNat 32 (op.toNat + slave * 256 + addr * 65536) := by
  have hop : op.toNat < 16 := op.isLt
  have join : ∀ {x y k : Nat}, x < 2 ^ k → x ||| y * 2 ^ k = x + y * 2 ^ k := by
    intro x y k below
    rw [← Nat.shiftLeft_eq, Nat.or_comm, ← Nat.shiftLeft_add_eq_or_of_lt below, Nat.add_comm]
  apply BitVec.eq_of_toNat_eq
  simp only [cmdWord, BitVec.toNat_or, BitVec.toNat_shiftLeft, BitVec.toNat_setWidth, BitVec.toNat_ofNat, Nat.shiftLeft_eq]
  simp (disch := omega) only [Nat.mod_eq_of_lt, join]
  norm_num

section
variable (p : Params) (slave addr : Nat) {op : Op}

theorem assemble_cmd (named : op ≠ .none) :
    assemble p (.cmd op slave addr) =
      if slave < 128 ∧ addr < 256 then
        some (.write p.engineBase .word (BitVec.ofNat 32 (op.code.toNat + slave * 256 + addr * 65536)))
      else none := by
  by_cases inRange : slave < 128 ∧ addr < 256
  · rw [assemble, if_pos ⟨named, inRange⟩, if_pos inRange, cmdWord_eq_ofNat op.code inRange.1 inRange.2]
  · rw [assemble, if_neg fun h => inRange h.2, if_neg inRange]

/-- A program with a statement that is refused is refused whole. -/
theorem assembleAll_refused {p : Params} {st : Statement} {l : List Statement} (among : st ∈ l)
    (refused : assemble p st = none) : assembleAll p l = none := by
  induction l with
  | nil => cases among
  | cons first rest ih =>
    rcases List.mem_cons.1 among with rfl | later
    · rw [assembleAll, refused]
    · rw [assembleAll, ih later]
      cases assemble p first <;> rfl

/-- The statements both bursts expand to, R87, with every operand in range. -/
theorem assembleAll_burst (named : op ≠ .none) {n : Int} {buffer : Nat} (regs : slave < 128 ∧ addr < 256)
    (count : -2 ^ 31 ≤ n ∧ n < 2 ^ 31) (inPort : buffer < 2 ^ p.addrW) :
    assembleAll p [.len n, .buf buffer, .cmd op slave addr, .wait] =
      some [.write (p.engineBase + 4) .word (BitVec.ofInt 32 n), .write (p.engineBase + 8) .word (BitVec.ofNat 32 buffer),
        .write p.engineBase .word (BitVec.ofNat 32 (op.code.toNat + slave * 256 + addr * 65536)), .wait] := by
  have len : assemble p (.len n) = some _ := if_pos count
  have buf : assemble p (.buf buffer) = some _ := if_pos inPort
  have cmd := (assemble_cmd p slave addr named).trans (if_pos regs)
  simp only [assembleAll, len, buf, cmd]
  rfl

/-- With an operand out of range, the statement that has it is refused. -/
theorem assembleAll_burst_refused (named : op ≠ .none) {n : Int} {buffer : Nat}
    (bad : ¬ (slave < 128 ∧ addr < 256 ∧ (-2 ^ 31 ≤ n ∧ n < 2 ^ 31) ∧ buffer < 2 ^ p.addrW)) :
    assembleAll p [.len n, .buf buffer, .cmd op slave addr, .wait] = none := by
  by_cases count : -2 ^ 31 ≤ n ∧ n < 2 ^ 31
  · by_cases inPort : buffer < 2 ^ p.addrW
    · have regs : ¬ (slave < 128 ∧ addr < 256) := fun h => bad ⟨h.1, h.2, count, inPort⟩
      exact assembleAll_refused (st := .cmd op slave addr) (by simp) ((assemble_cmd p slave addr named).trans (if_neg regs))
    · exact assembleAll_refused (st := .buf buffer) (by simp) (if_neg inPort)
  · exact assembleAll_refused (st := .len n) (by simp) (if_neg count)

end

/-- Settles O58: the operands in range are those the statements of the expansion take. -/
theorem callsAssembleToAccesses : Obligations.CallsAssembleToAccesses := by
  intro p slave addr buffer n fits word burst
  have read : Op.byteRead ≠ .none := nofun
  have burstRead : Op.burstRead ≠ .none := nofun
  have burstWrite : Op.burstWrite ≠ .none := nofun
  refine ⟨fun regs => ?_, fun bad => ?_, fun ⟨slaveFits, addrFits, count, inPort⟩ => ⟨?_, ?_⟩, fun bad => ⟨?_, ?_⟩⟩
  · have cmd := (assemble_cmd p slave addr read).trans (if_pos regs)
    simp only [Call.expand, assembleAll, cmd]
    rfl
  · exact assembleAll_refused (.head _) ((assemble_cmd p slave addr read).trans (if_neg bad))
  · exact assembleAll_burst p slave addr burstRead ⟨slaveFits, addrFits⟩ count inPort
  · exact assembleAll_burst p slave addr burstWrite ⟨slaveFits, addrFits⟩ count inPort
  · exact assembleAll_burst_refused p slave addr burstRead bad
  · exact assembleAll_burst_refused p slave addr burstWrite bad

/-! ### What a call returns -/

/-- Code 6 is that of DONE alone (10_state.md R22). -/
theorem code_done_iff (st : EngState) : st.code = 6 ↔ st = .done := by
  cases st <;> decide

theorem statusState_statusWord (e : Engine) : statusState (statusWord e) = e.st.code := statusWord_state e

theorem statusData_statusWord (e : Engine) : statusData (statusWord e) = e.data := statusWord_data e

/-- Settles O59: the result column of R87 reads STATE and DATA. -/
theorem callResultsFollowState : Obligations.CallResultsFollowState := by
  intro e slave addr buffer n
  refine ⟨?_, fun done => ?_, fun aborted => ?_⟩
  · simp only [Call.result, statusState_statusWord, statusData_statusWord, code_done_iff]
  · simp [Call.result, statusState_statusWord, done, EngState.code]
  · simp [Call.result, statusState_statusWord, aborted, EngState.code]

end Sys2Proof.Machine
end

section
/-! PROOFS. The Bus Guard, the selection of a wait, and what a wait does while its poll selects nothing or NACK. -/

namespace Sys2Proof.Machine

/-- Settles O20: `select` is R121's formula, one line for each priority. -/
theorem selectionFollowsPriority : Obligations.SelectionFollowsPriority := fun _ _ => ⟨rfl, rfl⟩

/-! ### The choice of a wait -/

/-- NACK is chosen exactly where the state tests it and the poll selects it. -/
theorem choice_nack_iff (s : State) :
    choice s = .nack ↔
      s.eng.nackTested ∧ select s.params.nackPriority (polled s).nackf (s.eng.awaited (polled s)) = .nack := by
  cases tested : s.eng.nackTested with
  | true => simp [choice, tested]
  | false => cases awaited : s.eng.awaited (polled s) <;> simp [choice, tested, awaited]

/-- A poll with neither the awaited flag nor, where it is tested, NACKF selects nothing, whatever the priority. -/
theorem choice_none {s : State} (awaited : s.eng.awaited (polled s) = false)
    (nackf : s.eng.nackTested = true → (polled s).nackf = false) : choice s = .none := by
  cases tested : s.eng.nackTested with
  | true => cases priority : s.params.nackPriority <;> simp [choice, tested, awaited, nackf tested, priority, select]
  | false => simp [choice, tested, awaited]

/-- With nothing chosen the step is its poll alone. -/
theorem step_waits {s : State} (noInput : s.inputs = []) (busy : s.eng.st.busy = true) (chosen : choice s = .none) :
    step s = .next (pollStatus s) := by
  rw [step_no_input noInput, engineStep_eq_respond busy, chosen, respond]

theorem spins_of_step {s : State} (h : step s = .next (pollStatus s)) : Spins s :=
  ⟨_, h, by simp [polledCtl, polledEnv]⟩

/-! ### The Bus Guard -/

/-- A busy bus selects nothing in the Guard, whatever else the poll shows (40_bus_guard_and_primitives.md R122). -/
theorem choice_busGuard_busy {s : State} (st : s.eng.st = .awaitBusFree) (shown : (polled s).busy = true) :
    choice s = .none :=
  choice_none (by simp [Engine.awaited, st, shown]) (by simp [Engine.nackTested, st])

theorem issues_of_step {s : State} {d : Descriptor} (h : step s = .next (issue d (pollStatus s))) :
    Issues s s.eng d :=
  ⟨_, h, by simp [polledCtl, polledEnv, ctrlAnswer]⟩

/-- Settles O22: a poll with BUSY selects nothing, and one without it issues phase 1. -/
theorem busGuardStep_spins_or_issues : Obligations.BusGuardStep := by
  intro s noInput st
  refine ⟨fun shown => ?_, fun d free descriptor => ?_⟩
  · have busy : s.eng.st.busy = true := by rw [st]; rfl
    exact spins_of_step (step_waits noInput busy (choice_busGuard_busy st shown))
  · exact issues_of_step (step_busGuard noInput st free descriptor)

/-! ### STOP requests -/

theorem stopRequests_sendByte {s t : State} (h : sendByte s = .next t) :
    stopRequests t.trace = stopRequests s.trace := by
  rcases sendByte_cases h with ⟨-, rfl⟩ | ⟨a, -, -, -, rfl⟩ <;> simp [stopRequests]

theorem stopRequests_receiveByte {s t : State} (h : receiveByte s = .next t) :
    stopRequests t.trace = stopRequests s.trace := by
  rcases receiveByte_cases h with ⟨-, rfl⟩ | ⟨a, -, -, -, rfl⟩ <;> simp [stopRequests]

theorem stopRequests_transferComplete (s : State) :
    stopRequests (transferComplete s).trace = stopRequests s.trace := by
  rcases transferComplete_cases s with ⟨d, -, -, ht⟩ | ht <;> simp [ht, stopRequests]

/-- No READY action requests a STOP. -/
theorem stopRequests_readyAction {s t : State} (h : readyAction s = .next t) :
    stopRequests t.trace = stopRequests s.trace := by
  unfold readyAction at h
  cases st : s.eng.st with
  | awaitBusFree =>
    cases descriptor : phase1 s.eng with
    | some d => simp only [st, descriptor, Host.Outcome.next.injEq] at h; simp [← h, stopRequests]
    | none => simp [st, descriptor] at h
  | awaitAddrAck | awaitByteReady =>
    cases dir : s.eng.cur.dir with
    | write => simp only [st, dir] at h; exact stopRequests_sendByte h
    | read => simp only [st, dir] at h; exact stopRequests_receiveByte h
  | awaitTransferComplete =>
    simp only [st, Host.Outcome.next.injEq] at h
    rw [← h, stopRequests_transferComplete]
  | awaitStop =>
    cases cause : s.eng.stopCause with
    | complete => simp only [st, cause, Host.Outcome.next.injEq] at h; simp [← h, stopComplete, stopRequests]
    | abort => simp only [st, cause, Host.Outcome.next.injEq] at h; simp [← h, stopRequests]
  | idle | done | aborted | illegal => simp only [st, Host.Outcome.next.injEq] at h; rw [h]

/-- The abort path's entry requests one STOP (41_transaction_engine.md R160), and no other action requests any. -/
theorem stopRequests_respond {c : Selection} {s t : State} (h : respond c s = .next t) :
    stopRequests t.trace = stopRequests s.trace + if c = .nack then 1 else 0 := by
  cases c with
  | nack => cases h; simp [stopRequests]
  | ready => exact stopRequests_readyAction h
  | none => cases h; rfl

/-- NACK is tested in busy states alone. -/
theorem nackTested_quiescent {e : Engine} (h : e.st.busy = false) : e.nackTested = false := by
  cases st : e.st <;> simp_all [Engine.nackTested, EngState.busy]

/-- Settles O32: the action that requests a STOP is the one the choice NACK asks for. -/
theorem stopRequestedOnlyOnNack : Obligations.StopRequestedOnlyOnNack := by
  intro s t noInput h
  rw [step_no_input noInput] at h
  cases busy : s.eng.st.busy with
  | false =>
    rw [engineStep_quiescent busy] at h
    cases h
    simp [nackTested_quiescent busy]
  | true =>
    rw [engineStep_eq_respond busy] at h
    have polls : stopRequests (pollStatus s).trace = stopRequests s.trace := by simp [stopRequests]
    rw [stopRequests_respond h, polls]
    simp only [choice_nack_iff]

/-! ### Waiting without end -/

/-- Settles O44: induction on the listed answers, each of which selects nothing. -/
theorem waitsAreUnbounded : Obligations.WaitsAreUnbounded := by
  intro s words more noInput busy shown unseen
  induction words generalizing s with
  | nil => exact ⟨s, rfl, rfl, rfl, shown, by simp⟩
  | cons w words ih =>
    rw [List.forall_mem_cons] at unseen
    obtain ⟨⟨awaited, nackf⟩, later⟩ := unseen
    have polls : polled s = flagsOf s.params.regif w := polled_cons shown
    have waits : step s = .next (pollStatus s) := by
      rw [← polls] at awaited nackf
      exact step_waits noInput busy (choice_none awaited nackf)
    obtain ⟨t, runs, eng, mem, status, trace⟩ := ih (pollStatus s) (by simpa using noInput) (by simpa using busy)
      (by simp [afterStatus_cons shown]) (by simpa using later)
    refine ⟨t, ?_, by simpa using eng, by simpa using mem, status, ?_⟩
    · rw [List.length_cons, run_succ _ waits, runs]
    · simpa [polls] using trace

end Sys2Proof.Machine
end

section
/-! PROOFS. The engine's steps one by one: the descriptors of the phases, the move after a byte, and what each wait does
for each selection of its poll. -/

namespace Sys2Proof.Machine

/-! ### Phases and counts -/

/-- The low byte of a count from 1 to 255 is the count. -/
theorem toNat_setWidth_of_count {n : Word} (positive : 1 ≤ n.toInt) (small : n.toInt ≤ 255) :
    ((n.setWidth 8 : Byte).toNat : Int) = n.toInt := by
  have same := toNat_of_toInt_pos positive
  rw [BitVec.toNat_setWidth]
  omega

/-- One more than a count from 1 to 254 still fits a byte (42_sequencer_and_operations.md R185). -/
theorem toNat_setWidth_add_one_of_count {n : Word} (positive : 1 ≤ n.toInt) (small : n.toInt ≤ 254) :
    ((n.setWidth 8 + 1 : Byte).toNat : Int) = n.toInt + 1 := by
  have same := toNat_setWidth_of_count positive (by omega)
  have : (1 : Byte).toNat = 1 := rfl
  rw [BitVec.toNat_add]
  omega

/-- Settles O21: the counts are bytes because the checks admit no more than 255 of them, 254 for a write. -/
theorem phaseDescriptors : Obligations.PhaseDescriptors := by
  intro e
  refine ⟨fun op => ?_, fun op admitted => ?_, fun op admitted => ?_⟩
  · simp [phase1, phase2, op]
  · simp only [Engine.Admitted, op, readLimit] at admitted
    have count := toNat_setWidth_of_count admitted.1 admitted.2
    exact ⟨by simp [phase1, op], e.n.setWidth 8, by simp [phase2, op], count, by omega⟩
  · simp only [Engine.Admitted, op, writeLimit] at admitted
    have count := toNat_setWidth_add_one_of_count admitted.1 admitted.2
    exact ⟨by simp [phase2, op], e.n.setWidth 8 + 1, by simp [phase1, op], count, by omega⟩

/-- Settles O23: the three moves of R148, and E.idx below a byte's count has room for one more. -/
theorem afterByteMoves : Obligations.AfterByteMoves := by
  intro e
  refine ⟨engineAfterByte_softwareEnd, engineAfterByte_autoEnd, engineAfterByte_more, fun below => ?_⟩
  rw [engineAfterByte_idx]
  constructor <;> bv_omega

/-- Settles O30: with no input the step is the engine's, and a quiescent engine takes none. -/
theorem quiescentEngineTakesNoStep : Obligations.QuiescentEngineTakesNoStep := fun _ noInput quiescent =>
  (step_no_input noInput).trans (engineStep_quiescent quiescent)

/-! ### A wait that tests NACK -/

/-- NACK is tested in busy states alone. -/
theorem nackTested_busy {e : Engine} (tested : e.nackTested = true) : e.st.busy = true := by
  cases busy : e.st.busy with
  | true => rfl
  | false => rw [nackTested_quiescent busy] at tested; cases tested

/-- In a wait that tests NACK the step is its poll and the action the selection asks for. -/
theorem step_of_selection {s : State} {shown : Bool} {c : Selection} (noInput : s.inputs = [])
    (tested : s.eng.nackTested = true) (awaited : s.eng.awaited (polled s) = shown)
    (selected : select s.params.nackPriority (polled s).nackf shown = c) : step s = respond c (pollStatus s) := by
  have chosen : choice s = c := by rw [choice, if_pos tested, awaited, selected]
  rw [step_no_input noInput, engineStep_eq_respond (nackTested_busy tested), chosen]

theorem aborts_of_selection {s : State} {shown : Bool} (noInput : s.inputs = []) (tested : s.eng.nackTested = true)
    (awaited : s.eng.awaited (polled s) = shown)
    (selected : select s.params.nackPriority (polled s).nackf shown = .nack) : Aborts s :=
  ⟨_, step_of_selection noInput tested awaited selected, by simp [clearedCtl, polledEnv, ctrlAnswer]⟩

/-- Settles O29: the selection NACK asks for the abort path's entry. -/
theorem nackTakesAbortEntry : Obligations.NackTakesAbortEntry := fun _ noInput tested selected =>
  aborts_of_selection noInput tested rfl selected

theorem spins_of_selection {s : State} {shown : Bool} (noInput : s.inputs = []) (tested : s.eng.nackTested = true)
    (awaited : s.eng.awaited (polled s) = shown)
    (selected : select s.params.nackPriority (polled s).nackf shown = .none) : Spins s :=
  spins_of_step (step_of_selection noInput tested awaited selected)

/-! ### The byte waits -/

theorem readyAction_write {s : State} (wait : byteWait s.eng) (dir : s.eng.cur.dir = .write) :
    readyAction s = sendByte s := by
  rcases wait with st | st <;> simp [readyAction, st, dir]

theorem readyAction_read {s : State} (wait : byteWait s.eng) (dir : s.eng.cur.dir = .read) :
    readyAction s = receiveByte s := by
  rcases wait with st | st <;> simp [readyAction, st, dir]

/-- Settles O24: the selection of TXIS and NACKF, and on READY the pointer byte or the next buffer byte. -/
theorem writeByteStep_follows_selection : Obligations.WriteByteStep := by
  intro s noInput (wait : byteWait s.eng) dir selected a b
  have tested := byteWait_nackTested wait
  have awaited : s.eng.awaited (polled s) = (polled s).txis := by rw [awaited_byteWait wait, if_pos dir]
  have sends (ready : selected = .ready) : step s = sendByte (pollStatus s) := by
    rw [step_of_selection noInput tested awaited ready]
    exact readyAction_write (by simpa using wait) (by simpa using dir)
  refine ⟨fun nack => ?_, fun none => ?_, fun ready pointer => ?_, fun ready later clear => ?_,
    fun ready later overlaps => ?_⟩
  · exact aborts_of_selection noInput tested awaited nack
  · exact spins_of_selection noInput tested awaited none
  · refine ⟨_, (sends ready).trans (sendByte_pointer (by simpa using pointer)), ?_⟩
    simp [polledCtl, polledEnv, txWord]
  · refine ⟨_, (sends ready).trans (sendByte_buffer (a := a) (by simpa using later) (by simp [a, bufferAddr])
      (by simpa using clear)), ?_⟩
    simp [polledCtl, polledEnv, txWord, b]
  · exact (sends ready).trans (sendByte_registers (by simpa using later) (by simpa [a, bufferAddr] using overlaps))

/-- The byte the step's RxRead returns is that of the answer after the poll. -/
theorem received_pollStatus (s : State) :
    received (pollStatus s) = (rxAnswer s).extractLsb' s.params.regif.rxData 8 := by
  simp [received, rxAnswer, polledEnv]

/-- Settles O25: the selection of RXNE and NACKF, and on READY the byte to E.data or to its place in the buffer. -/
theorem readByteStep_follows_selection : Obligations.ReadByteStep := by
  intro s noInput (wait : byteWait s.eng) dir canonical selected a b
  have tested := byteWait_nackTested wait
  have awaited : s.eng.awaited (polled s) = (polled s).rxne := by
    rw [awaited_byteWait wait, if_neg (by rw [dir]; decide)]
  have receives (ready : selected = .ready) : step s = receiveByte (pollStatus s) := by
    rw [step_of_selection noInput tested awaited ready]
    exact readyAction_read (by simpa using wait) (by simpa using dir)
  have byte : received (pollStatus s) = b := received_pollStatus s
  refine ⟨fun nack => ?_, fun none => ?_, fun ready byteRead => ?_, fun ready burst clear => ?_,
    fun ready burst overlaps => ?_⟩
  · exact aborts_of_selection noInput tested awaited nack
  · exact spins_of_selection noInput tested awaited none
  · refine ⟨_, (receives ready).trans (receiveByte_data (by simpa using byteRead)), ?_⟩
    simp [polledCtl, polledEnv, rxAnswer, byte]
  · refine ⟨_, (receives ready).trans (receiveByte_buffer (a := a) (by simpa using burst) (by simp [a, bufferAddr])
      (by simpa using clear)), ?_⟩
    simp [polledCtl, polledEnv, rxAnswer, byte, Memory.read_write _ _ _ _ canonical]
  · exact (receives ready).trans (receiveByte_registers (by simpa using burst) (by simpa [a, bufferAddr] using overlaps))

/-! ### The completion waits -/

/-- Phase 2 is that of Read-register (41_transaction_engine.md R141). -/
theorem phase2_isSome_iff (e : Engine) : (phase2 e).isSome = true ↔ e.op = .byteRead ∨ e.op = .burstRead := by
  unfold phase2
  cases e.op <;> simp

theorem transferComplete_restart {s : State} {d : Descriptor} (first : s.eng.phase = .first)
    (descriptor : phase2 s.eng = some d) :
    transferComplete s = issue d (s.setEng { s.eng with phase := .second }) := by
  simp only [transferComplete, first, descriptor]

theorem transferComplete_done {s : State} (last : ¬ (s.eng.phase = .first ∧ (phase2 s.eng).isSome = true)) :
    transferComplete s = s.setEng { s.eng with st := .done } := by
  rcases transferComplete_cases s with ⟨d, first, descriptor, -⟩ | done
  · exact absurd ⟨first, by simp [descriptor]⟩ last
  · exact done

/-- Settles O26: the selection of TC and NACKF, and on READY phase 2 where there is one to come. -/
theorem transferCompleteStep_follows_selection : Obligations.TransferCompleteStep := by
  intro s noInput st selected
  have tested : s.eng.nackTested = true := by simp [Engine.nackTested, st]
  have awaited : s.eng.awaited (polled s) = (polled s).tc := by simp [Engine.awaited, st]
  have completes (ready : selected = .ready) : step s = .next (transferComplete (pollStatus s)) := by
    rw [step_of_selection noInput tested awaited ready]
    simp [respond, readyAction, st]
  refine ⟨fun nack => ?_, fun none => ?_, fun ready first _ d descriptor => ?_, fun ready last => ?_⟩
  · exact aborts_of_selection noInput tested awaited nack
  · exact spins_of_selection noInput tested awaited none
  · refine ⟨_, completes ready, ?_⟩
    rw [transferComplete_restart (by simpa using first) (by simpa using descriptor)]
    simp [polledCtl, polledEnv, ctrlAnswer]
  · refine ⟨_, completes ready, ?_⟩
    rw [transferComplete_done (by simpa only [pollStatus_eng, phase2_isSome_iff] using last)]
    simp [polledCtl, polledEnv]

/-- Settles O27: the selection of STOPF and NACKF, and on READY the clear and DONE. -/
theorem stopCompleteStep_follows_selection : Obligations.StopCompleteStep := by
  intro s noInput st cause selected
  have tested : s.eng.nackTested = true := by simp [Engine.nackTested, st, cause]
  have awaited : s.eng.awaited (polled s) = (polled s).stopf := by simp [Engine.awaited, st]
  have completes (ready : selected = .ready) : step s = .next (stopComplete (pollStatus s)) := by
    rw [step_of_selection noInput tested awaited ready]
    simp [respond, readyAction, st, cause]
  refine ⟨fun nack => ?_, fun none => ?_, fun ready byteRead => ?_, fun ready burst => ?_⟩
  · exact aborts_of_selection noInput tested awaited nack
  · exact spins_of_selection noInput tested awaited none
  · exact ⟨_, completes ready, by simp [stopComplete, clearedCtl, polledEnv, byteRead]⟩
  · exact ⟨_, completes ready, by simp [stopComplete, clearedCtl, polledEnv, burst]⟩

/-- Settles O28: NACK is not tested on the abort path, so STOPF alone decides. -/
theorem stopAbortStep_tests_stopf_alone : Obligations.StopAbortStep := by
  intro s noInput st cause
  refine ⟨fun unseen => ?_, fun shown => ?_⟩
  · have chosen : choice s = .none :=
      choice_none (by simpa [Engine.awaited, st] using unseen) (by simp [Engine.nackTested, st, cause])
    exact spins_of_step (step_waits noInput (by rw [st]; rfl) chosen)
  · exact ⟨_, step_stopAbort noInput st cause shown, by simp [clearedCtl, polledEnv]⟩

end Sys2Proof.Machine
end

section
/-! PROOFS. What every step of a busy engine has in common: its one poll, where it can stop, and what a received byte
steers. -/

namespace Sys2Proof.Machine

/-! ### One poll -/

/-- `t` has performed further accesses than `s`, none of them a poll. -/
def AddsNoPoll (s t : State) : Prop :=
  ∃ events, t.trace = s.trace ++ events ∧ events.all (fun e => !e.isPoll) = true

theorem addsNoPoll_sendByte {s t : State} (h : sendByte s = .next t) : AddsNoPoll s t := by
  rcases sendByte_cases h with ⟨-, rfl⟩ | ⟨a, -, -, -, rfl⟩
  · exact ⟨[.tx s.eng.raddr], by simp, rfl⟩
  · exact ⟨[.memRead a (Memory.read s.mem a), .tx (Memory.read s.mem a)], by simp, rfl⟩

theorem addsNoPoll_receiveByte {s t : State} (h : receiveByte s = .next t) : AddsNoPoll s t := by
  rcases receiveByte_cases h with ⟨-, rfl⟩ | ⟨a, -, -, -, rfl⟩
  · exact ⟨[.rx (received s)], by simp, rfl⟩
  · exact ⟨[.rx (received s), .memWrite a (received s)], by simp, rfl⟩

theorem addsNoPoll_issue (d : Descriptor) (s : State) : AddsNoPoll s (issue d s) :=
  ⟨[.writeCtrl d, .ctrlRead (nextCtrl s.env), .start], by simp, rfl⟩

theorem addsNoPoll_transferComplete (s : State) : AddsNoPoll s (transferComplete s) := by
  rcases transferComplete_cases s with ⟨d, -, -, restart⟩ | done
  · rw [restart]; exact addsNoPoll_issue d _
  · exact ⟨[], by simp [done], rfl⟩

/-- After its poll a busy step polls no more (41_transaction_engine.md R140). -/
theorem addsNoPoll_engineStep {s t : State} (busy : s.eng.st.busy = true) (h : engineStep s = .next t) :
    AddsNoPoll (pollStatus s) t := by
  rcases engineStep_cases h with ⟨quiescent, -⟩ | ⟨-, rfl⟩ | ⟨-, rfl⟩ | ⟨-, -, d, -, rfl⟩ | ⟨-, -, -, sent⟩ |
    ⟨-, -, -, taken⟩ | ⟨-, -, rfl⟩ | ⟨-, -, -, rfl⟩ | ⟨-, -, -, rfl⟩
  · simp [quiescent] at busy
  · exact ⟨[], by simp, rfl⟩
  · exact ⟨[.clearNack, .ctrlRead (nextCtrl (pollStatus s).env), .stop], by simp, rfl⟩
  · exact addsNoPoll_issue d _
  · exact addsNoPoll_sendByte sent
  · exact addsNoPoll_receiveByte taken
  · exact addsNoPoll_transferComplete _
  · exact ⟨[.clearStop], by simp [stopComplete], rfl⟩
  · exact ⟨[.clearStop], by simp, rfl⟩

/-- Settles O31: the poll opens the step, and the action after it polls no more. -/
theorem busyStepPollsOnce : Obligations.BusyStepPollsOnce := by
  intro s t noInput busy h
  rw [step_no_input noInput] at h
  obtain ⟨events, trace, noPoll⟩ := addsNoPoll_engineStep busy h
  exact ⟨events, by simpa using trace, noPoll⟩

/-! ### Where the engine's step can stop -/

/-- An admitted operation has a phase 1. -/
theorem phase1_of_admitted {e : Engine} (admitted : e.Admitted) : ∃ d, phase1 e = some d := by
  cases op : e.op with
  | none => simp [Engine.Admitted, op] at admitted
  | byteRead | burstRead | burstWrite => simp [phase1, op]

theorem phase1_dir {e : Engine} {d : Descriptor} (h : phase1 e = some d) : d.dir = .write := by
  unfold phase1 at h
  split at h <;> cases h <;> rfl

theorem phase2_dir {e : Engine} {d : Descriptor} (h : phase2 e = some d) : d.dir = .read := by
  unfold phase2 at h
  split at h <;> cases h <;> rfl

/-- Phase 1 is the WRITE phase of every operation (R141). -/
theorem phase1_of_write {e : Engine} {d : Descriptor} (h : e.phaseDescriptor = some d) (dir : d.dir = .write) :
    phase1 e = some d := by
  unfold Engine.phaseDescriptor at h
  split at h
  · exact h
  · rw [phase2_dir h] at dir; cases dir

/-- Phase 2 is the READ phase of every operation that has one (R141). -/
theorem phase2_of_read {e : Engine} {d : Descriptor} (h : e.phaseDescriptor = some d) (dir : d.dir = .read) :
    phase2 e = some d := by
  unfold Engine.phaseDescriptor at h
  split at h
  · rw [phase1_dir h] at dir; cases dir
  · exact h

/-- The byte a WRITE phase sends after the pointer byte is one of the n of BURST_WRITE (R141, R143): the other WRITE phases
have the pointer byte alone. -/
theorem Engine.Open.sends_buffer {e : Engine} (opened : e.Open) (dir : e.cur.dir = .write) (below : e.idx < e.cur.count)
    (later : e.idx ≠ 0) : e.op = .burstWrite ∧ e.idx.toNat - 1 < e.n.toNat := by
  obtain ⟨admitted, descriptor⟩ := opened
  have opens := phase1_of_write descriptor dir
  have count {c : Byte} {em : EndMode} (one : phase1 e = some ⟨e.sadd, .write, c, em⟩) : c = e.cur.count :=
    congrArg Descriptor.count (Option.some.inj (one.symm.trans opens))
  obtain ⟨byteRead, burstRead, burstWrite⟩ := phaseDescriptors e
  cases op : e.op with
  | none => simp [Engine.Admitted, op] at admitted
  | byteRead =>
    have pointer := count (byteRead op).1
    bv_omega
  | burstRead =>
    have pointer := count (burstRead op admitted).1
    bv_omega
  | burstWrite =>
    obtain ⟨-, c, one, counts, -⟩ := burstWrite op admitted
    have := count one
    simp only [Engine.Admitted, op] at admitted
    have := toNat_of_toInt_pos admitted.1
    exact ⟨rfl, by bv_omega⟩

/-- The byte a READ phase delivers to the buffer is one of the n of BURST_READ (R141, R146). -/
theorem Engine.Open.fills_buffer {e : Engine} (opened : e.Open) (dir : e.cur.dir = .read) (below : e.idx < e.cur.count)
    (burst : e.op ≠ .byteRead) : e.op = .burstRead ∧ e.idx.toNat < e.n.toNat := by
  obtain ⟨admitted, descriptor⟩ := opened
  have opens := phase2_of_read descriptor dir
  obtain ⟨-, burstRead, burstWrite⟩ := phaseDescriptors e
  cases op : e.op with
  | none => simp [Engine.Admitted, op] at admitted
  | byteRead => exact absurd op burst
  | burstRead =>
    obtain ⟨-, c, two, counts, -⟩ := burstRead op admitted
    have : c = e.cur.count := congrArg Descriptor.count (Option.some.inj (two.symm.trans opens))
    simp only [Engine.Admitted, op] at admitted
    have := toNat_of_toInt_pos admitted.1
    exact ⟨rfl, by bv_omega⟩
  | burstWrite =>
    rw [(burstWrite op admitted).1] at opens
    cases opens

/-- The n bytes of a burst's buffer are clear of the register windows (20_memory.md R69). -/
def BurstClear (s : State) : Prop :=
  s.eng.op = .burstRead ∨ s.eng.op = .burstWrite → BufferClear s.params s.eng s.eng.n.toNat

theorem sendByte_completes {s : State} (opened : s.eng.Open) (dir : s.eng.cur.dir = .write)
    (below : s.eng.idx < s.eng.cur.count) (clear : BurstClear s) : ∃ t, sendByte s = .next t := by
  by_cases pointer : s.eng.idx = 0
  · exact ⟨_, sendByte_pointer pointer⟩
  · obtain ⟨op, inside⟩ := opened.sends_buffer dir below pointer
    exact ⟨_, sendByte_buffer pointer rfl (clear (.inr op) _ inside)⟩

theorem receiveByte_completes {s : State} (opened : s.eng.Open) (dir : s.eng.cur.dir = .read)
    (below : s.eng.idx < s.eng.cur.count) (clear : BurstClear s) : ∃ t, receiveByte s = .next t := by
  by_cases byteRead : s.eng.op = .byteRead
  · exact ⟨_, receiveByte_data byteRead⟩
  · obtain ⟨op, inside⟩ := opened.fills_buffer dir below byteRead
    exact ⟨_, receiveByte_buffer byteRead rfl (clear (.inl op) _ inside)⟩

theorem readyAction_completes {s : State} (inv : s.eng.StateInv) (clear : BurstClear s) :
    ∃ t, readyAction s = .next t := by
  have byte (wait : byteWait s.eng) : ∃ t, readyAction s = .next t := by
    obtain ⟨opened, below, -⟩ := inv.of_byteWait wait
    cases dir : s.eng.cur.dir with
    | write => rw [readyAction_write wait dir]; exact sendByte_completes opened dir below clear
    | read => rw [readyAction_read wait dir]; exact receiveByte_completes opened dir below clear
  cases st : s.eng.st with
  | awaitBusFree =>
    simp only [Engine.StateInv, st] at inv
    obtain ⟨d, descriptor⟩ := phase1_of_admitted inv.1
    simp [readyAction, st, descriptor]
  | awaitAddrAck => exact byte (.inl st)
  | awaitByteReady => exact byte (.inr st)
  | awaitStop => cases cause : s.eng.stopCause <;> simp [readyAction, st, cause]
  | awaitTransferComplete | idle | done | aborted | illegal => simp [readyAction, st]

theorem engineStep_completes {s : State} (inv : s.eng.StateInv) (clear : s.eng.st.busy = true → BurstClear s) :
    ∃ t, engineStep s = .next t := by
  cases busy : s.eng.st.busy with
  | false => exact ⟨s, engineStep_quiescent busy⟩
  | true =>
    rw [engineStep_eq_respond busy]
    cases choice s with
    | nack => exact ⟨_, rfl⟩
    | none => exact ⟨_, rfl⟩
    | ready =>
      exact readyAction_completes (by simpa using inv)
        (by simpa only [BurstClear, pollStatus_eng, pollStatus_params] using clear busy)

/-- Settles O34: the Guard of an admitted operation has a phase to issue, and the buffer byte of a byte wait is one of the
n that are clear of the windows. -/
theorem engineStopsOnlyAtRegisters : Obligations.EngineStopsOnlyAtRegisters := by
  refine ⟨fun s inv noInput clear => ?_, fun s inv noInput => ?_⟩
  · rw [step_no_input noInput]
    exact engineStep_completes inv.1 fun _ => clear
  · obtain ⟨engine, -, -, -, fits⟩ := inv
    rw [step_no_input noInput]
    exact engineStep_completes engine.1 fun busy burst => (fits busy burst).2

/-! ### What a received byte steers -/

/-- Two states from memory `m` whose registers differ at most in E.data, and whose memories differ at most in where the one
holds `x` and the other `y`. -/
structure DeliveredAlike (m : Memory) (x y : Byte) (t u : State) : Prop where
  eng : u.eng = { t.eng with data := u.eng.data }
  bytes : ∀ a, (Memory.read t.mem a = Memory.read m a ∧ Memory.read u.mem a = Memory.read m a) ∨
    (Memory.read t.mem a = x ∧ Memory.read u.mem a = y)

theorem DeliveredAlike.of_kept {m : Memory} {x y : Byte} {t u : State} (eng : u.eng = t.eng) (ht : t.mem = m)
    (hu : u.mem = m) : DeliveredAlike m x y t u :=
  ⟨by rw [eng], fun a => .inl ⟨by rw [ht], by rw [hu]⟩⟩

/-- The move after a byte does not look at E.data (R148). -/
theorem engineAfterByte_setData (e : Engine) (b : Byte) :
    engineAfterByte { e with data := b } = { engineAfterByte e with data := b } := by
  by_cases last : e.idx + 1 = e.cur.count
  · cases em : e.cur.em with
    | softwareEnd =>
      rw [engineAfterByte_softwareEnd last em, engineAfterByte_softwareEnd (e := { e with data := b }) last em]
    | autoEnd => rw [engineAfterByte_autoEnd last em, engineAfterByte_autoEnd (e := { e with data := b }) last em]
  · rw [engineAfterByte_more last, engineAfterByte_more (e := { e with data := b }) last]

section
variable {s s' t : State} (eng : s'.eng = s.eng) (mem : s'.mem = s.mem)
include eng mem

theorem transferComplete_alike {x y : Byte} :
    DeliveredAlike s.mem x y (transferComplete s) (transferComplete s') := by
  unfold transferComplete
  rw [eng]
  split <;> exact .of_kept (by simp) (by simp) (by simp [mem])

variable (params : s'.params = s.params)
include params

theorem receiveByte_alike (canonical : Memory.wf s.mem) (taken : receiveByte s = .next t) :
    ∃ u, receiveByte s' = .next u ∧ DeliveredAlike s.mem (received s) (received s') t u := by
  rcases receiveByte_cases taken with ⟨byteRead, rfl⟩ | ⟨a, at_a, burst, free, rfl⟩
  · refine ⟨_, receiveByte_data (by rwa [eng]), ?_, fun a => ?_⟩
    · simp [engineAfterByte_setData, eng]
    · simp [mem]
  · refine ⟨_, receiveByte_buffer (a := a) (by rwa [eng]) (by rwa [eng, params]) (by rwa [params]), ?_, fun c => ?_⟩
    · simp only [afterByte_eng, emit_eng, setMem_eng, rxRead_eng, eng]
    · by_cases here : c = a <;> simp [mem, Memory.read_write _ _ _ _ canonical, here]

theorem sendByte_alike {x y : Byte} (sent : sendByte s = .next t) :
    ∃ u, sendByte s' = .next u ∧ DeliveredAlike s.mem x y t u := by
  rcases sendByte_cases sent with ⟨pointer, rfl⟩ | ⟨a, at_a, buffer, free, rfl⟩
  · exact ⟨_, sendByte_pointer (by rwa [eng]), .of_kept (by simp [eng]) (by simp) (by simp [mem])⟩
  · exact ⟨_, sendByte_buffer (a := a) (by rwa [eng]) (by rwa [eng, params]) (by rwa [params]),
      .of_kept (by simp [eng]) (by simp) (by simp [mem])⟩

/-- Where the two states have the same registers and memory, the action changes them alike. -/
theorem respond_alike (canonical : Memory.wf s.mem) {c : Selection} (acts : respond c s = .next t) :
    ∃ u, respond c s' = .next u ∧ DeliveredAlike s.mem (received s) (received s') t u := by
  cases c with
  | nack => cases acts; exact ⟨_, rfl, .of_kept (by simp [eng]) (by simp) (by simp [mem])⟩
  | none => cases acts; exact ⟨_, rfl, .of_kept eng rfl mem⟩
  | ready =>
    simp only [respond, readyAction] at acts ⊢
    rw [eng]
    cases st : s.eng.st with
    | awaitBusFree =>
      cases descriptor : phase1 s.eng with
      | some d =>
        simp only [st, descriptor] at acts ⊢
        cases acts
        exact ⟨_, rfl, .of_kept (by simp [eng]) (by simp) (by simp [mem])⟩
      | none => simp [st, descriptor] at acts
    | awaitAddrAck | awaitByteReady =>
      cases dir : s.eng.cur.dir with
      | write =>
        simp only [st, dir] at acts ⊢
        exact sendByte_alike eng mem params acts
      | read =>
        simp only [st, dir] at acts ⊢
        exact receiveByte_alike eng mem params canonical acts
    | awaitTransferComplete =>
      simp only [st] at acts ⊢
      cases acts
      exact ⟨_, rfl, transferComplete_alike eng mem⟩
    | awaitStop =>
      cases cause : s.eng.stopCause <;> simp only [st, cause] at acts ⊢ <;> cases acts <;>
        exact ⟨_, rfl, .of_kept (by simp [stopComplete, eng]) (by simp [stopComplete]) (by simp [stopComplete, mem])⟩
    | idle | done | aborted | illegal =>
      simp only [st] at acts ⊢
      cases acts
      exact ⟨_, rfl, .of_kept eng rfl mem⟩

end

/-- The state with another next answer to a read of RXDR. -/
def State.receiving (s : State) (v : Word) (rest : List Word) : State := s.setEnv { s.env with rx := v :: rest }

@[simp] theorem receiving_params (s : State) (v : Word) (rest : List Word) : (s.receiving v rest).params = s.params := rfl
@[simp] theorem receiving_eng (s : State) (v : Word) (rest : List Word) : (s.receiving v rest).eng = s.eng := rfl
@[simp] theorem receiving_mem (s : State) (v : Word) (rest : List Word) : (s.receiving v rest).mem = s.mem := rfl
@[simp] theorem receiving_inputs (s : State) (v : Word) (rest : List Word) : (s.receiving v rest).inputs = s.inputs := rfl

/-- The poll does not see what RXDR will answer. -/
theorem choice_receiving (s : State) (v : Word) (rest : List Word) : choice (s.receiving v rest) = choice s := rfl

/-- The byte of the listed answer to RXDR, through the step's poll. -/
theorem received_pollStatus_cons {s : State} {w : Word} {rest : List Word} (listed : s.env.rx = w :: rest) :
    received (pollStatus s) = w.extractLsb' s.params.regif.rxData 8 := by
  simp [received, nextRx, listed]

/-- Settles O38: the poll's choice does not see the byte, and the action delivers it without looking at it. -/
theorem receivedByteSteersNothing : Obligations.ReceivedByteSteersNothing := by
  intro s t w v rest noInput listed canonical h
  rw [step_no_input noInput] at h
  change ∃ u, step (s.receiving v rest) = .next u ∧ _
  rw [step_no_input (by simpa using noInput)]
  cases busy : s.eng.st.busy with
  | false =>
    rw [engineStep_quiescent busy] at h
    cases h
    exact ⟨_, engineStep_quiescent busy, rfl, fun a => .inl ⟨rfl, rfl⟩⟩
  | true =>
    rw [engineStep_eq_respond busy] at h
    obtain ⟨u, acts, alike⟩ := respond_alike (s' := pollStatus (s.receiving v rest)) (by simp) (by simp) (by simp)
      (by simpa using canonical) h
    rw [received_pollStatus_cons listed, received_pollStatus_cons (s := s.receiving v rest) rfl] at alike
    refine ⟨u, ?_, alike.eng, by simpa using alike.bytes⟩
    rw [engineStep_eq_respond (s := s.receiving v rest) busy, choice_receiving]
    exact acts

end Sys2Proof.Machine
end

section
/-! PROOFS. The abort path from the NACK to ABORTED. -/

namespace Sys2Proof.Machine

/-- A step with no input pending leaves none pending. -/
theorem step_keeps_noInput {s t : State} (noInput : s.inputs = []) (h : step s = .next t) : t.inputs = [] := by
  have same : s.setInputs [] = s := by rw [← noInput]; rfl
  have keeps := engineStep_setInputs s []
  rw [same, ← step_no_input noInput, h] at keeps
  rw [Host.Outcome.next.inj keeps, setInputs_inputs]

/-- A run of the engine alone keeps the parameters and has no input to take at its end. -/
theorem run_keeps_noInput {k : Nat} {s t : State} (noInput : s.inputs = [])
    (runs : Sys2Proof.core.run k s = .next t) : t.inputs = [] ∧ t.params = s.params := by
  induction k generalizing s with
  | zero => cases runs; exact ⟨noInput, rfl⟩
  | succ k ih =>
    simp only [Host.Core.run] at runs
    split at runs
    · next u steps =>
      obtain ⟨noInput', params⟩ := ih (step_keeps_noInput noInput steps) runs
      have frame := engineStep_frame ((step_no_input noInput).symm.trans steps)
      exact ⟨noInput', params.trans frame.params⟩
    · cases runs
    · cases runs

/-- From AWAIT_STOP with cause ABORT: any number of polls without STOPF, then one with it, and the operation is ABORTED
(41_transaction_engine.md R153). -/
theorem abortPath_run {s : State} {last : Word} {between more : List Word} (noInput : s.inputs = [])
    (st : s.eng.st = .awaitStop) (cause : s.eng.stopCause = .abort) (listed : s.env.status = between ++ last :: more)
    (unseen : ∀ w ∈ between, (flagsOf s.params.regif w).stopf = false)
    (seen : (flagsOf s.params.regif last).stopf = true) :
    ∃ t, Sys2Proof.core.run (between.length + 1) s = .next t ∧ t.eng = { s.eng with st := .aborted } ∧ t.mem = s.mem ∧
      t.trace = s.trace ++ between.map (fun w => .poll (flagsOf s.params.regif w)) ++
        [.poll (flagsOf s.params.regif last), .clearStop] := by
  obtain ⟨u, runs, eng, mem, status, trace⟩ := waitsAreUnbounded s between (last :: more) noInput (by rw [st]; rfl) listed
    fun w hw => ⟨by simpa [Engine.awaited, st] using unseen w hw, by simp [Engine.nackTested, st, cause]⟩
  obtain ⟨noInput', params⟩ := run_keeps_noInput noInput runs
  have polls : polled u = flagsOf s.params.regif last := by rw [polled_cons status, params]
  have returns : step u = .next (abortReturn (pollStatus u)) :=
    step_stopAbort noInput' (by rwa [eng]) (by rwa [eng]) (by rwa [polls])
  exact ⟨_, (run_append _ 1 runs).trans (run_succ 0 returns), by simp [eng], by simp [mem], by simp [trace, polls]⟩

/-- Every call returns Aborted from ABORTED (30_encoding.md R87). -/
theorem result_of_aborted {e : Engine} (aborted : e.st = .aborted) (call : Call) :
    Call.result (statusWord e) call = some .aborted := by
  cases call with
  | byteRead slave addr =>
    obtain ⟨byte, -, -⟩ := callResultsFollowState e slave addr 0 0
    rw [byte, aborted]
    rfl
  | burstRead slave addr n buffer =>
    obtain ⟨-, -, bursts⟩ := callResultsFollowState e slave addr buffer n
    exact (bursts aborted).1
  | burstWrite slave addr n buffer =>
    obtain ⟨-, -, bursts⟩ := callResultsFollowState e slave addr buffer n
    exact (bursts aborted).2

/-- Settles O43: the NACK's step requests the one STOP, and every later step polls until the one that clears STOPF. -/
theorem nackAbortsOperation : Obligations.NackAbortsOperation := by
  intro s first last between more noInput tested listed nack unseen seen
  have polls : polled s = flagsOf s.params.regif first := polled_cons listed
  have enters : step s = .next (abortEntry (pollStatus s)) :=
    step_of_selection (c := .nack) noInput tested rfl (by rwa [polls])
  obtain ⟨t, runs, eng, mem, trace⟩ := abortPath_run (s := abortEntry (pollStatus s)) (last := last) (between := between)
    (more := more) (by simpa using noInput) (by simp) (by simp) (by simp [afterStatus_cons listed])
    (by simpa using unseen) (by simpa using seen)
  refine ⟨t, (run_succ _ enters).trans runs, by simp [eng], by simp [mem], ?_, ?_, ?_, result_of_aborted (by simp [eng])⟩
  · simp [trace, stopRequests, List.count_eq_zero]
  · simp [trace, sentBytes]
  · simp [trace, issuedDescriptors]

end Sys2Proof.Machine
end

section
/-! PROOFS. The accept of a command and how an instruction comes to run: what each command gives in a quiescent state, and
the input that carries its code. -/

namespace Sys2Proof.Machine

/-! ### The command accept -/

section
variable {s : State} (sadd : BitVec 7) (raddr : Byte) (quiescent : s.eng.st.busy = false)
include quiescent

theorem exec_byteRead :
    exec (.byteRead sadd raddr) s = .next (startGuard (latch .byteRead sadd raddr (cmdWord 1 sadd raddr) s)) := by
  rw [exec, execByteRead, whenQuiescent_quiescent _ quiescent]

theorem exec_burstRead :
    exec (.burstRead sadd raddr) s =
      .next (checkCount readLimit (latch .burstRead sadd raddr (cmdWord 2 sadd raddr) s)) := by
  rw [exec, execBurstRead, whenQuiescent_quiescent _ quiescent]

theorem exec_burstWrite :
    exec (.burstWrite sadd raddr) s =
      .next (checkCount writeLimit (latch .burstWrite sadd raddr (cmdWord 3 sadd raddr) s)) := by
  rw [exec, execBurstWrite, whenQuiescent_quiescent _ quiescent]

end

section
variable (s : State) (op : Op) (sadd : BitVec 7) (raddr : Byte) (w : Word)

/-- The latching is what R180 leaves in the registers, but for E.st. -/
@[simp] theorem latch_eng : (latch op sadd raddr w s).eng = acceptedEngine s op sadd raddr s.eng.st := rfl
@[simp] theorem latch_params : (latch op sadd raddr w s).params = s.params := rfl
@[simp] theorem latch_cmd : (latch op sadd raddr w s).cmd = w := rfl
@[simp] theorem latch_len : (latch op sadd raddr w s).len = s.len := rfl
@[simp] theorem latch_buf : (latch op sadd raddr w s).buf = s.buf := rfl
@[simp] theorem latch_ctl : (latch op sadd raddr w s).ctl = s.ctl := rfl
@[simp] theorem latch_mem : (latch op sadd raddr w s).mem = s.mem := rfl
@[simp] theorem latch_env : (latch op sadd raddr w s).env = s.env := rfl
@[simp] theorem latch_inputs : (latch op sadd raddr w s).inputs = s.inputs := rfl
@[simp] theorem latch_trace : (latch op sadd raddr w s).trace = s.trace := rfl
@[simp] theorem latch_hostReads : (latch op sadd raddr w s).hostReads = s.hostReads := rfl

theorem startGuard_latch_eng :
    (startGuard (latch op sadd raddr w s)).eng = acceptedEngine s op sadd raddr .awaitBusFree := rfl

theorem startGuard_gives :
    Gives (.next (startGuard (latch op sadd raddr w s))) s w (acceptedEngine s op sadd raddr .awaitBusFree) s.ctl s.env
      (Memory.read s.mem) [] :=
  ⟨_, rfl, by simp [acceptedEngine]⟩

end

/-- Settles O14: no count is checked, so the latched command starts at the Guard. -/
theorem byteReadIsAccepted : Obligations.ByteReadIsAccepted := by
  intro s sadd raddr quiescent
  rw [exec_byteRead sadd raddr quiescent]
  exact startGuard_gives s .byteRead sadd raddr (cmdWord 1 sadd raddr)

theorem checkCount_empty {limit : Int} {s : State} (empty : s.eng.n.toInt ≤ 0) :
    checkCount limit s = finishAtOnce s := if_pos empty

theorem checkCount_starts {limit : Int} {s : State} (positive : 1 ≤ s.eng.n.toInt) (atMost : s.eng.n.toInt ≤ limit) :
    checkCount limit s = startGuard s := by
  rw [checkCount, if_neg (by omega), if_neg (by omega)]

theorem checkCount_rejects {limit : Int} {s : State} (above : limit < s.eng.n.toInt) (positive : 1 ≤ s.eng.n.toInt) :
    checkCount limit s = reject s := by
  rw [checkCount, if_neg (by omega), if_pos above]

/-- A command that runs as the count check of its latched word is accepted as R182 to R186 say. -/
theorem burstAccept_of_checkCount {i : Instr} {op : Op} {code : Word} {limit : Int} {s : State} {sadd : BitVec 7}
    {raddr : Byte}
    (runs : exec i s = .next (checkCount limit
      (latch op sadd raddr (code ||| sadd.setWidth 32 <<< 8 ||| raddr.setWidth 32 <<< 16) s))) :
    BurstAccept i op code limit s sadd raddr := by
  refine ⟨fun empty => ?_, fun positive atMost => ?_, fun above positive => ?_⟩
  · rw [runs, checkCount_empty empty]
    exact ⟨_, rfl, by simp [acceptedEngine]⟩
  · rw [runs, checkCount_starts positive atMost]
    exact startGuard_gives s op sadd raddr _
  · rw [runs, checkCount_rejects above positive]
    exact ⟨_, rfl, by simp [acceptedEngine]⟩

/-- Settles O15: both bursts are the count check of their latched word, with their own limit. -/
theorem burstCountsAreChecked : Obligations.BurstCountsAreChecked := fun _ sadd raddr quiescent =>
  ⟨burstAccept_of_checkCount (exec_burstRead sadd raddr quiescent),
    burstAccept_of_checkCount (exec_burstWrite sadd raddr quiescent)⟩

/-- Settles O19: every arm of `exec` answers a next state, a command's by `whenQuiescent`. -/
theorem everyInstructionCompletes : Obligations.EveryInstructionCompletes := by
  intro i s _
  cases i with
  | byteRead | burstRead | burstWrite => exact ⟨_, rfl⟩
  | pollStatus | ctrlRead | writeCtrl | triggerStart | triggerStop | txWrite | rxRead | clearNack | clearStop =>
    exact ⟨_, rfl⟩

/-! ### The input that carries a code -/

/-- The host's contract for the command `i` in `s`: the engine is quiescent (42_sequencer_and_operations.md R181), and a
burst that would start has a buffer the spec admits (20_memory.md R69, U14). -/
def State.admits (s : State) (i : Instr) : Prop :=
  s.eng.st.busy = false ∧
    ∀ limit, bufferLimit i = some limit → 1 ≤ s.len.toInt → s.len.toInt ≤ limit → s.bufferAdmitted

/-- The input of a code runs the instruction it decodes to, a command where the host's contract admits it. -/
theorem step_inputOf {s : State} {rest : List Input} {c : Code} {i : Instr} (first : s.inputs = inputOf s.params c :: rest)
    (decoded : decode s.params.regif c = .ok i) (admitted : i.isCommand = true → s.admits i) :
    step s = exec i (s.setInputs rest) := by
  have runs : runCode c (s.setInputs rest) = exec i (s.setInputs rest) := by
    simp only [runCode, setInputs_params, decoded]
  rw [step_input first]
  cases c with
  | cmd w =>
    obtain ⟨quiescent, buffer⟩ := admitted (decodeCmd_isCommand decoded)
    have noBreach : commandBreach w (s.setInputs rest) = none := commandBreach_admitted decoded quiescent buffer
    rw [inputOf, runInput, ← setInputs_params s rest, hostWrite_cmd, writeCmd, noBreach]
    exact runs
  | access k => exact runs

/-- Settles O8: each input is that of a code. -/
theorem inputRunsDecodedInstruction : Obligations.InputRunsDecodedInstruction := by
  intro s rest i
  refine ⟨fun w first decoded quiescent buffer => ?_, fun k first decoded => ?_⟩
  · exact step_inputOf (c := .cmd w) first decoded fun _ => ⟨quiescent, buffer⟩
  · exact step_inputOf (c := .access k) first decoded fun isCommand => by
      rw [decodeKey_isCommand decoded] at isCommand
      cases isCommand

/-! ### The words of the opcode table -/

/-- A byte of a number is that byte of its word. -/
theorem extract_ofNat (width w p : Nat) (inside : p + 8 ≤ width) :
    (BitVec.ofNat width w).extractLsb' p 8 = BitVec.ofNat 8 (w / 2 ^ p) := by
  apply BitVec.eq_of_toNat_eq
  have covers : 2 ^ width = 2 ^ p * 2 ^ (width - p) := by rw [← Nat.pow_add]; congr 1; omega
  have byte : 2 ^ 8 ∣ 2 ^ (width - p) := Nat.pow_dvd_pow 2 (by omega)
  rw [BitVec.extractLsb'_toNat, BitVec.toNat_ofNat, BitVec.toNat_ofNat, Nat.shiftRight_eq_div_pow, covers,
    Nat.mod_mul_right_div_self, Nat.mod_mod_of_dvd _ byte]

/-- The bytes of a table word are those of its code. -/
theorem tableBytes_eq (nbits : Nat) {w : Nat} (small : w < 2 ^ 41) : tableBytes nbits w = (tableCode nbits w).bytes := by
  unfold tableBytes tableCode
  split
  · simp [Code.bytes, extract_ofNat]
  · have top : ((BitVec.ofNat 41 w).extractLsb' 40 1).setWidth 8 = BitVec.ofNat 8 (w / 2 ^ 40) := by
      apply BitVec.eq_of_toNat_eq
      simp [Nat.shiftRight_eq_div_pow]
      omega
    simp [Code.bytes, extract_ofNat, top]

/-- A table word decodes as its code does in the default binding. -/
theorem decode_tableCode {nbits w : Nat} {i : Instr} (small : w < 2 ^ 41) (decoded : decodeTableWord nbits w = some i) :
    decode .stm32f3 (tableCode nbits w) = .ok i := by
  rw [decodeTableWord, tableBytes_eq nbits small, decodeBytes_bytes] at decoded
  split at decoded
  · next j isOk => cases decoded; exact isOk
  · cases decoded

/-- The decoding of a command word asks nothing of the binding. -/
theorem decode_of_isCommand {b b' : Binding} {c : Code} {i : Instr} (decoded : decode b c = .ok i)
    (isCommand : i.isCommand = true) : decode b' c = .ok i := by
  cases c with
  | cmd w => exact decoded
  | access k => rw [decodeKey_isCommand decoded] at isCommand; cases isCommand

/-- Settles O7: the word's input is that of its code. -/
theorem stepRunsDecodedInstruction : Obligations.StepRunsDecodedInstruction := by
  intro s nbits w i small decoded
  have code := decode_tableCode small decoded
  refine ⟨fun isAccess binding => ?_, fun isCommand quiescent buffer => ?_⟩
  · exact step_inputOf (s := s.withFetchWord nbits w) rfl (binding ▸ code) (by simp [isAccess])
  · exact step_inputOf (s := s.withFetchWord nbits w) rfl (decode_of_isCommand code isCommand) fun _ => ⟨quiescent, buffer⟩

end Sys2Proof.Machine
end

section
/-! PROOFS. How an operation ends: under the invariant, in the STOP wait alone. -/

namespace Sys2Proof.Machine

/-- A transferred byte leads to a wait (41_transaction_engine.md R148). -/
theorem engineAfterByte_busy (e : Engine) : (engineAfterByte e).st.busy = true := by
  by_cases last : e.idx + 1 = e.cur.count
  · cases em : e.cur.em with
    | softwareEnd => rw [engineAfterByte_softwareEnd last em]; rfl
    | autoEnd => rw [engineAfterByte_autoEnd last em]; rfl
  · rw [engineAfterByte_more last]; rfl

/-- An open phase without AUTO_END is phase 1 of Read-register, which phase 2 follows (R141). -/
theorem Engine.Open.restarts {e : Engine} (opened : e.Open) (em : e.cur.em = .softwareEnd) :
    e.phase = .first ∧ ∃ d, phase2 e = some d := by
  obtain ⟨-, descriptor⟩ := opened
  cases phase : e.phase <;> cases op : e.op <;>
    simp [Engine.phaseDescriptor, phase, op, phase1, phase2, em] at descriptor ⊢

/-- Under the invariant the completion wait goes on to phase 2: DONE by R157 is never reached. -/
theorem transferComplete_busy {s : State} (inv : s.eng.StateInv) (st : s.eng.st = .awaitTransferComplete) :
    (transferComplete s).eng.st.busy = true := by
  simp only [Engine.StateInv, st] at inv
  obtain ⟨opened, -, em, -⟩ := inv
  obtain ⟨first, d, descriptor⟩ := opened.restarts em
  rw [transferComplete_restart first descriptor, issue_eng]
  rfl

/-- Settles O33: every other action of a busy engine leads to a wait. -/
theorem operationEndsByClearingStop : Obligations.OperationEndsByClearingStop := by
  intro s t inv noInput busy h ended
  have state : s.eng.StateInv := inv.1.1
  rw [step_no_input noInput] at h
  rcases engineStep_cases h with ⟨quiescent, -⟩ | ⟨-, rfl⟩ | ⟨-, rfl⟩ | ⟨-, -, d, -, rfl⟩ | ⟨-, -, -, sent⟩ |
    ⟨-, -, -, taken⟩ | ⟨st, -, rfl⟩ | ⟨st, cause, ready, rfl⟩ | ⟨st, cause, shown, rfl⟩
  · simp [busy] at quiescent
  · simp [busy] at ended
  · simp [EngState.busy] at ended
  · simp [EngState.busy] at ended
  · simp [sendByte_eng sent, engineAfterByte_busy] at ended
  · obtain ⟨data, eng⟩ := receiveByte_eng taken
    simp [eng, engineAfterByte_busy] at ended
  · simp [transferComplete_busy (s := pollStatus s) (by simpa using state) (by simpa using st)] at ended
  · exact ⟨st, select_ready_awaited ready, by simp [stopComplete], .inl ⟨cause, rfl⟩⟩
  · exact ⟨st, shown, by simp, .inr ⟨cause, by simp⟩⟩

end Sys2Proof.Machine
end

section
/-! PROOFS. Runs of an operation whose slave acknowledges everything: what a stretch of steps adds to the trace, the step of
each wait, and the bytes of a burst moved one after the other. -/

namespace Sys2Proof.Machine

/-! ### Stretches of steps -/

/-- As many steps as `words` take `s` to `t`: the polls use up the answers `words`, the controller is handed the bytes `sent`
and the descriptors `issued`, and no STOP is requested. -/
structure Progress (s t : State) (words : List Word) (sent : List Byte) (issued : List Descriptor) : Prop where
  run : Sys2Proof.core.run words.length s = .next t
  status : s.env.status = words ++ t.env.status
  sent : sentBytes t.trace = sentBytes s.trace ++ sent
  issued : issuedDescriptors t.trace = issuedDescriptors s.trace ++ issued
  stops : stopRequests t.trace = stopRequests s.trace

theorem Progress.refl (s : State) : Progress s s [] [] [] := ⟨rfl, rfl, by simp, by simp, rfl⟩

theorem Progress.trans {s t u : State} {v w : List Word} {x y : List Byte} {c d : List Descriptor}
    (first : Progress s t v x c) (second : Progress t u w y d) : Progress s u (v ++ w) (x ++ y) (c ++ d) where
  run := by rw [List.length_append, run_append _ _ first.run, second.run]
  status := by rw [first.status, second.status, List.append_assoc]
  sent := by rw [second.sent, first.sent, List.append_assoc]
  issued := by rw [second.issued, first.issued, List.append_assoc]
  stops := second.stops.trans first.stops

theorem Progress.keeps_noInput {s t : State} {words : List Word} {sent : List Byte} {issued : List Descriptor}
    (h : Progress s t words sent issued) (noInput : s.inputs = []) : t.inputs = [] ∧ t.params = s.params :=
  run_keeps_noInput noInput h.run

/-- The answers a stretch leaves are those listed after the ones it uses. -/
theorem Progress.leaves {s t : State} {words more : List Word} {sent : List Byte} {issued : List Descriptor}
    (h : Progress s t words sent issued) (listed : s.env.status = words ++ more) : t.env.status = more :=
  List.append_cancel_left (h.status.symm.trans listed)

/-! ### The step of each wait -/

/-- The status word shows the flag and not NACKF: a wait for the flag selects READY, whatever the priority (R121). -/
def Acks (b : Binding) (flag : Flags → Bool) (w : Word) : Prop := (flag (flagsOf b w) && !(flagsOf b w).nackf) = true

section
variable {s : State} {w : Word} {more : List Word} (noInput : s.inputs = []) (listed : s.env.status = w :: more)
include listed

/-- A step that performs its poll and then `events`. -/
theorem Progress.of_step {t : State} {events : List Event} (steps : step s = .next t)
    (status : t.env.status = (pollStatus s).env.status) (trace : t.trace = (pollStatus s).trace ++ events)
    (noStop : Event.stop ∉ events) : Progress s t [w] (sentBytes events) (issuedDescriptors events) where
  run := run_succ 0 steps
  status := by simp [status, listed, afterStatus_cons listed]
  sent := by simp [trace, sentBytes]
  issued := by simp [trace, issuedDescriptors]
  stops := by simp [trace, stopRequests, List.count_eq_zero.2 noStop]

theorem polled_acked {flag : Flags → Bool} (shown : Acks s.params.regif flag w) :
    (polled s).nackf = false ∧ flag (polled s) = true := by
  rw [polled_cons listed]
  simpa [Acks, and_comm] using shown

include noInput

/-- The Guard's step on a free bus (40_bus_guard_and_primitives.md R122). -/
theorem progress_issue {d : Descriptor} (st : s.eng.st = .awaitBusFree) (descriptor : phase1 s.eng = some d)
    (free : (!(flagsOf s.params.regif w).busy) = true) :
    ∃ t, Progress s t [w] [] [d] ∧
      t.eng = { s.eng with cur := ⟨d.dir, d.count, d.em⟩, idx := 0, st := .awaitAddrAck } ∧ t.mem = s.mem ∧
      t.env.rx = s.env.rx := by
  have steps := step_busGuard noInput st (by simpa [polled_cons listed] using free) descriptor
  exact ⟨_, .of_step listed (events := [.writeCtrl d, .ctrlRead (nextCtrl (pollStatus s).env), .start]) steps (by simp)
    (by simp) (by simp), by simp, by simp, by simp⟩

/-- The RESTART into phase 2 (41_transaction_engine.md R151, R156). -/
theorem progress_restart {d : Descriptor} (st : s.eng.st = .awaitTransferComplete) (first : s.eng.phase = .first)
    (descriptor : phase2 s.eng = some d)
    (shown : Acks s.params.regif Flags.tc w) :
    ∃ t, Progress s t [w] [] [d] ∧
      t.eng = { s.eng with phase := .second, cur := ⟨d.dir, d.count, d.em⟩, idx := 0, st := .awaitAddrAck } ∧
      t.mem = s.mem ∧ t.env.rx = s.env.rx := by
  obtain ⟨nackf, tc⟩ := polled_acked listed shown
  have steps := step_transferComplete noInput st nackf tc
  rw [transferComplete_restart (s := pollStatus s) (by simpa using first) (by simpa using descriptor)] at steps
  exact ⟨_, .of_step listed (events := [.writeCtrl d, .ctrlRead (nextCtrl (pollStatus s).env), .start]) steps (by simp)
    (by simp) (by simp), by simp, by simp, by simp⟩

/-- The end of an AUTO_END phase (R152). -/
theorem progress_stop (st : s.eng.st = .awaitStop) (cause : s.eng.stopCause = .complete)
    (shown : Acks s.params.regif Flags.stopf w) :
    ∃ t, Progress s t [w] [] [] ∧
      t.eng = { s.eng with dataValid := s.eng.dataValid || s.eng.op == .byteRead, st := .done } ∧ t.mem = s.mem := by
  obtain ⟨nackf, stopf⟩ := polled_acked listed shown
  have steps := step_stopComplete noInput st cause nackf stopf
  exact ⟨_, .of_step listed (events := [.clearStop]) steps (by simp [stopComplete]) (by simp [stopComplete]) (by simp),
    by simp [stopComplete], by simp [stopComplete]⟩

section
variable (wait : byteWait s.eng) (dir : s.eng.cur.dir = .write)
  (shown : Acks s.params.regif Flags.txis w)
include wait dir shown

/-- The pointer byte goes out (R143). -/
theorem progress_pointer (pointer : s.eng.idx = 0) :
    ∃ t, Progress s t [w] [s.eng.raddr] [] ∧ t.eng = engineAfterByte s.eng ∧ t.mem = s.mem ∧ t.env.rx = s.env.rx := by
  obtain ⟨nackf, txis⟩ := polled_acked listed shown
  have steps := step_sendByte noInput wait dir nackf txis
  rw [sendByte_pointer (by simpa using pointer), pollStatus_eng] at steps
  exact ⟨_, .of_step listed (events := [.tx s.eng.raddr]) steps (by simp) (by simp) (by simp), by simp, by simp, by simp⟩

/-- A buffer byte goes out (R143). -/
theorem progress_send {a : Nat} (later : s.eng.idx ≠ 0) (at_a : a = bufferAddr s.params s.eng (s.eng.idx.toNat - 1))
    (clear : inRegisters s.params a = false) :
    ∃ t, Progress s t [w] [Memory.read s.mem a] [] ∧ t.eng = engineAfterByte s.eng ∧ t.mem = s.mem := by
  obtain ⟨nackf, txis⟩ := polled_acked listed shown
  have steps := step_sendByte noInput wait dir nackf txis
  rw [sendByte_buffer (a := a) (by simpa using later) (by simpa using at_a) (by simpa using clear)] at steps
  exact ⟨_, .of_step listed (events := [.memRead a (Memory.read s.mem a), .tx (Memory.read s.mem a)]) steps (by simp)
    (by simp) (by simp), by simp, by simp⟩

end

section
variable (wait : byteWait s.eng) (dir : s.eng.cur.dir = .read)
  (shown : Acks s.params.regif Flags.rxne w)
include wait dir shown

/-- BYTE_READ's byte goes to E.data (R146). -/
theorem progress_data {x : Word} {rest : List Word} (byteRead : s.eng.op = .byteRead) (answer : s.env.rx = x :: rest) :
    ∃ t, Progress s t [w] [] [] ∧
      t.eng = engineAfterByte { s.eng with data := x.extractLsb' s.params.regif.rxData 8 } ∧ t.mem = s.mem := by
  obtain ⟨nackf, rxne⟩ := polled_acked listed shown
  have steps := step_receiveByte noInput wait dir nackf rxne
  rw [receiveByte_data (by simpa using byteRead), received_pollStatus_cons answer] at steps
  exact ⟨_, .of_step listed (events := [.rx (received (pollStatus s))]) steps (by simp) (by simp) (by simp), by simp,
    by simp⟩

/-- A burst's byte goes to its place in the buffer (R146). -/
theorem progress_receive {a : Nat} {x : Word} {rest : List Word} (burst : s.eng.op ≠ .byteRead)
    (at_a : a = bufferAddr s.params s.eng s.eng.idx.toNat) (clear : inRegisters s.params a = false)
    (answer : s.env.rx = x :: rest) :
    ∃ t, Progress s t [w] [] [] ∧ t.eng = engineAfterByte s.eng ∧
      t.mem = Memory.write s.mem a (x.extractLsb' s.params.regif.rxData 8) ∧ t.env.rx = rest := by
  obtain ⟨nackf, rxne⟩ := polled_acked listed shown
  have steps := step_receiveByte noInput wait dir nackf rxne
  rw [receiveByte_buffer (a := a) (by simpa using burst) (by simpa using at_a) (by simpa using clear),
    received_pollStatus_cons answer] at steps
  have rest_left : (afterRx (pollStatus s).env).rx = rest :=
    congrArg Env.rx (afterRx_cons (v := (pollStatus s).env) (by simpa using answer))
  exact ⟨_, .of_step listed (events := [.rx (received (pollStatus s)),
    .memWrite a (x.extractLsb' s.params.regif.rxData 8)]) steps (by simp) (by simp) (by simp), by simp, by simp,
    by simpa using rest_left⟩

end

end

/-! ### The bytes of a burst -/

/-- The flag a byte wait awaits. -/
def byteFlag : Dir → Flags → Bool
  | .write => Flags.txis
  | .read => Flags.rxne

/-- The engine is in a phase of this direction with at least as many bytes to move as `words`, and its next answers are
`words`, each of which lets it move one. -/
structure MovesBytes (s : State) (d : Dir) (words more : List Word) : Prop where
  noInput : s.inputs = []
  dir : s.eng.cur.dir = d
  wait : words ≠ [] → byteWait s.eng
  room : s.eng.idx.toNat + words.length ≤ s.eng.cur.count.toNat
  listed : s.env.status = words ++ more
  shown : ∀ w ∈ words, Acks s.params.regif (byteFlag d) w

section
variable {s : State} {d : Dir} {w : Word} {words more : List Word} (h : MovesBytes s d (w :: words) more)
include h

theorem MovesBytes.below : s.eng.idx.toNat < s.eng.cur.count.toNat := by
  have room := h.room
  rw [List.length_cons] at room
  omega

theorem MovesBytes.idx_succ : (s.eng.idx + 1).toNat = s.eng.idx.toNat + 1 := by
  have below := h.below
  bv_omega

/-- One byte moved leaves the others to move. -/
theorem MovesBytes.next {t : State} {sent : List Byte} (moved : Progress s t [w] sent [])
    (eng : t.eng = engineAfterByte s.eng) : MovesBytes t d words more := by
  obtain ⟨noInput, params⟩ := moved.keeps_noInput h.noInput
  have room := h.room
  rw [List.length_cons] at room
  refine ⟨noInput, by simpa [eng] using h.dir, fun others => ?_, ?_, moved.leaves h.listed, fun v hv => ?_⟩
  · have : 0 < words.length := List.length_pos_iff.2 others
    have notLast : s.eng.idx + 1 ≠ s.eng.cur.count := fun last => by
      have := h.idx_succ
      rw [last] at this
      omega
    rw [eng, engineAfterByte_more notLast]
    exact .inr rfl
  · rw [eng, engineAfterByte_cur, engineAfterByte_idx, h.idx_succ]
    omega
  · rw [params]
    exact h.shown v (.tail _ hv)

end

/-- The bytes `bytes` written to the buffer from byte `i` on. -/
def fillBuffer (p : Params) (e : Engine) : Nat → List Byte → Memory → Memory
  | _, [], m => m
  | i, b :: bytes, m => fillBuffer p e (i + 1) bytes (Memory.write m (bufferAddr p e i) b)

/-- A buffer address is decided by E.base. -/
theorem bufferAddr_congr (p : Params) {e f : Engine} (base : f.base = e.base) : bufferAddr p f = bufferAddr p e := by
  funext i
  rw [bufferAddr, bufferAddr, base]

theorem bufferClear_congr (p : Params) {e f : Engine} (base : f.base = e.base) (n : Nat) :
    BufferClear p f n = BufferClear p e n := by
  rw [BufferClear, BufferClear, bufferAddr_congr p base]

theorem fillBuffer_congr (p : Params) {e f : Engine} (base : f.base = e.base) (i : Nat) (bytes : List Byte) (m : Memory) :
    fillBuffer p f i bytes m = fillBuffer p e i bytes m := by
  induction bytes generalizing i m with
  | nil => rfl
  | cons b bytes ih => rw [fillBuffer, fillBuffer, ih, bufferAddr_congr p base]

/-- E.idx goes up by one for each byte, and the last byte of an AUTO_END phase leads to the STOP wait (R148). -/
theorem engineAfterByte_iterate {e : Engine} {k : Nat} (em : e.cur.em = .autoEnd) (positive : 1 ≤ k)
    (count : e.idx.toNat + k = e.cur.count.toNat) :
    engineAfterByte^[k] e = { e with idx := e.cur.count, stopCause := .complete, st := .awaitStop } := by
  induction k, positive using Nat.le_induction generalizing e with
  | base =>
    have last : e.idx + 1 = e.cur.count := by bv_omega
    rw [Function.iterate_one, engineAfterByte_autoEnd last em, last]
  | succ k positive ih =>
    have notLast : e.idx + 1 ≠ e.cur.count := by bv_omega
    rw [Function.iterate_succ_apply, engineAfterByte_more notLast]
    exact ih em (by simp only; bv_omega)

/-- The bytes of BURST_READ come to the buffer one after the other (42_sequencer_and_operations.md R191). -/
theorem receive_run {s : State} {words more rx rxMore : List Word} (h : MovesBytes s .read words more)
    (burst : s.eng.op ≠ .byteRead) (clear : BufferClear s.params s.eng s.eng.cur.count.toNat)
    (answers : s.env.rx = rx ++ rxMore) (same : rx.length = words.length) :
    ∃ t, Progress s t words [] [] ∧ t.eng = engineAfterByte^[words.length] s.eng ∧
      t.mem = fillBuffer s.params s.eng s.eng.idx.toNat (rx.map (·.extractLsb' s.params.regif.rxData 8)) s.mem := by
  induction words generalizing s rx with
  | nil =>
    rw [List.length_nil, List.length_eq_zero_iff] at same
    subst same
    exact ⟨s, .refl s, rfl, rfl⟩
  | cons w words ih =>
    obtain ⟨x, rx, rfl⟩ := List.exists_cons_of_length_eq_add_one same
    obtain ⟨t, moved, eng, mem, rest⟩ := progress_receive h.noInput h.listed (h.wait nofun) h.dir (h.shown w (.head _))
      burst rfl (clear _ h.below) answers
    have params := (moved.keeps_noInput h.noInput).2
    have base : t.eng.base = s.eng.base := by simp [eng]
    obtain ⟨u, others, engs, mems⟩ := ih (h.next moved eng) (by simpa [eng] using burst)
      (by rw [params, bufferClear_congr _ base, eng, engineAfterByte_cur]; exact clear) rest (by simpa using same)
    refine ⟨u, moved.trans others, by rw [engs, eng]; rfl, ?_⟩
    rw [mems, params, fillBuffer_congr _ base, eng, engineAfterByte_idx, h.idx_succ, mem]
    rfl

/-- The bytes of BURST_WRITE after the pointer byte go out in the buffer's order (42_sequencer_and_operations.md R192). -/
theorem send_run {s : State} {words more : List Word} (h : MovesBytes s .write words more) (later : s.eng.idx ≠ 0)
    (clear : BufferClear s.params s.eng (s.eng.cur.count.toNat - 1)) :
    ∃ t, Progress s t words ((List.range' (s.eng.idx.toNat - 1) words.length).map
        fun k => Memory.read s.mem (bufferAddr s.params s.eng k)) [] ∧
      t.eng = engineAfterByte^[words.length] s.eng ∧ t.mem = s.mem := by
  induction words generalizing s with
  | nil => exact ⟨s, .refl s, rfl, rfl⟩
  | cons w words ih =>
    have below := h.below
    obtain ⟨t, moved, eng, mem⟩ := progress_send h.noInput h.listed (h.wait nofun) h.dir (h.shown w (.head _)) later rfl
      (clear _ (by bv_omega))
    have params := (moved.keeps_noInput h.noInput).2
    have base : t.eng.base = s.eng.base := by simp [eng]
    have idx : t.eng.idx.toNat = s.eng.idx.toNat + 1 := by rw [eng, engineAfterByte_idx, h.idx_succ]
    obtain ⟨u, others, engs, mems⟩ := ih (h.next moved eng) (by bv_omega)
      (by rw [params, bufferClear_congr _ base, eng, engineAfterByte_cur]; exact clear)
    rw [params, bufferAddr_congr _ base, mem, idx] at others
    refine ⟨u, ?_, by rw [engs, eng]; rfl, mems.trans mem⟩
    have start : s.eng.idx.toNat + 1 - 1 = s.eng.idx.toNat - 1 + 1 := by bv_omega
    rw [start] at others
    rw [List.length_cons, List.range'_succ]
    exact moved.trans others

/-- A WRITE phase sends the pointer byte and then the buffer's bytes (41_transaction_engine.md R143). -/
theorem writePhase_run {s : State} {words more : List Word} {n : Nat} (h : MovesBytes s .write words more)
    (pointer : s.eng.idx = 0) (length : words.length = n + 1)
    (clear : BufferClear s.params s.eng (s.eng.cur.count.toNat - 1)) :
    ∃ t, Progress s t words
        (s.eng.raddr :: (List.range n).map fun k => Memory.read s.mem (bufferAddr s.params s.eng k)) [] ∧
      t.eng = engineAfterByte^[words.length] s.eng ∧ t.mem = s.mem := by
  obtain ⟨w, words, rfl⟩ := List.exists_cons_of_length_eq_add_one length
  obtain ⟨t, moved, eng, mem, -⟩ := progress_pointer h.noInput h.listed (h.wait nofun) h.dir (h.shown w (.head _)) pointer
  have params := (moved.keeps_noInput h.noInput).2
  have base : t.eng.base = s.eng.base := by simp [eng]
  have idx : t.eng.idx = 1 := by simp [eng, pointer]
  obtain ⟨u, others, engs, mems⟩ := send_run (h.next moved eng) (by rw [idx]; decide)
    (by rw [params, bufferClear_congr _ base, eng, engineAfterByte_cur]; exact clear)
  rw [params, bufferAddr_congr _ base, mem, idx] at others
  refine ⟨u, ?_, by rw [engs, eng]; rfl, mems.trans mem⟩
  rw [List.range_eq_range', ← Nat.succ.inj length]
  exact moved.trans others

/-! ### The buffer after a burst -/

section
variable (p : Params) (e : Engine) {i : Nat} {bytes : List Byte} {m : Memory}

/-- A buffer no longer than the buffer port has no byte twice (20_memory.md R60). -/
theorem bufferAddr_ne {i j : Nat} (less : i < j) (fits : j < 2 ^ p.addrW) : bufferAddr p e i ≠ bufferAddr p e j := by
  intro same
  have cancelled : i % 2 ^ p.addrW = j % 2 ^ p.addrW := Nat.ModEq.add_left_cancel' _ same
  rw [Nat.mod_eq_of_lt fits, Nat.mod_eq_of_lt (by omega)] at cancelled
  omega

theorem read_fillBuffer_outside {a : Nat} (canonical : Memory.wf m)
    (outside : ∀ k < bytes.length, bufferAddr p e (i + k) ≠ a) :
    Memory.read (fillBuffer p e i bytes m) a = Memory.read m a := by
  induction bytes generalizing i m with
  | nil => rfl
  | cons b bytes ih =>
    have first : a ≠ bufferAddr p e i := (outside 0 (by simp)).symm
    rw [fillBuffer, ih (Memory.wf_write _ _ _ canonical), Memory.read_write _ _ _ _ canonical, if_neg first]
    intro k hk
    rw [Nat.add_right_comm, Nat.add_assoc]
    exact outside (k + 1) (by simpa using hk)

theorem read_fillBuffer (canonical : Memory.wf m) (fits : i + bytes.length ≤ 2 ^ p.addrW) {k : Nat}
    (hk : k < bytes.length) : Memory.read (fillBuffer p e i bytes m) (bufferAddr p e (i + k)) = bytes[k] := by
  induction bytes generalizing i m k with
  | nil => cases hk
  | cons b bytes ih =>
    rw [List.length_cons] at fits hk
    have written := Memory.wf_write m (bufferAddr p e i) b canonical
    cases k with
    | zero =>
      rw [fillBuffer, read_fillBuffer_outside p e written, Memory.read_write _ _ _ _ canonical]
      · simp
      · exact fun k hk => (bufferAddr_ne p e (by omega) (by omega)).symm
    | succ k =>
      rw [fillBuffer, ← Nat.add_assoc, Nat.add_right_comm, ih written (by omega) (by omega)]
      rfl

end

end Sys2Proof.Machine
end

section
/-! PROOFS. The three operations from their accept to DONE, with a slave that acknowledges everything. -/

namespace Sys2Proof.Machine

/-! ### Scripts of polls -/

theorem Shows.append {b : Binding} {words : List Word} {xs ys : List (Flags → Bool)} (h : Shows b words (xs ++ ys)) :
    ∃ v w, words = v ++ w ∧ Shows b v xs ∧ Shows b w ys :=
  ⟨_, _, (List.take_append_drop xs.length words).symm, List.forall₂_take_append _ _ _ h, List.forall₂_drop_append _ _ _ h⟩

theorem Shows.cons {b : Binding} {words : List Word} {want : Flags → Bool} {wants : List (Flags → Bool)}
    (h : Shows b words (want :: wants)) : ∃ w rest, words = w :: rest ∧ want (flagsOf b w) = true ∧ Shows b rest wants := by
  obtain ⟨w, rest, shown, others, rfl⟩ := List.forall₂_cons_right_iff.1 h
  exact ⟨w, rest, rfl, shown, others⟩

theorem Shows.singleton {b : Binding} {words : List Word} {want : Flags → Bool} (h : Shows b words [want]) :
    ∃ w, words = [w] ∧ want (flagsOf b w) = true := by
  obtain ⟨w, rest, rfl, shown, none⟩ := h.cons
  rw [List.forall₂_nil_right_iff.1 none]
  exact ⟨w, rfl, shown⟩

theorem Shows.replicate {b : Binding} {words : List Word} {want : Flags → Bool} {n : Nat}
    (h : Shows b words (List.replicate n want)) : words.length = n ∧ ∀ w ∈ words, want (flagsOf b w) = true := by
  refine ⟨by simpa using h.length_eq, fun w hw => ?_⟩
  induction n generalizing words with
  | zero => rw [List.forall₂_nil_right_iff.1 h] at hw; cases hw
  | succ n ih =>
    obtain ⟨v, rest, rfl, shown, others⟩ := h.cons
    rcases List.mem_cons.1 hw with rfl | later
    · exact shown
    · exact ih others later

/-- The polls of a Read-register are those that open it, one for each byte, and the one that ends it. -/
theorem Shows.readAcks_parts {b : Binding} {words : List Word} {n : Nat} (h : Shows b words (readAcks n)) :
    ∃ w0 w1 w2 bytes w3, words = [w0, w1, w2] ++ bytes ++ [w3] ∧ (!(flagsOf b w0).busy) = true ∧
      Acks b Flags.txis w1 ∧ Acks b Flags.tc w2 ∧
      bytes.length = n ∧ (∀ w ∈ bytes, Acks b Flags.rxne w) ∧
      Acks b Flags.stopf w3 := by
  obtain ⟨front, last, rfl, front_shown, last_shown⟩ := h.append
  obtain ⟨opening, bytes, rfl, opening_shown, bytes_shown⟩ := front_shown.append
  obtain ⟨w0, _, rfl, free, opening_shown⟩ := opening_shown.cons
  obtain ⟨w1, _, rfl, pointer, opening_shown⟩ := opening_shown.cons
  obtain ⟨w2, rfl, complete⟩ := opening_shown.singleton
  obtain ⟨w3, rfl, stop⟩ := last_shown.singleton
  obtain ⟨length, each⟩ := bytes_shown.replicate
  exact ⟨w0, w1, w2, bytes, w3, rfl, free, pointer, complete, length, each, stop⟩

/-- The polls of a Write-register are the one that opens it, one for each byte, the pointer byte among them, and the one
that ends it. -/
theorem Shows.writeAcks_parts {b : Binding} {words : List Word} {n : Nat} (h : Shows b words (writeAcks n)) :
    ∃ w0 bytes w1, words = [w0] ++ bytes ++ [w1] ∧ (!(flagsOf b w0).busy) = true ∧ bytes.length = n + 1 ∧
      (∀ w ∈ bytes, Acks b Flags.txis w) ∧
      Acks b Flags.stopf w1 := by
  obtain ⟨front, last, rfl, front_shown, last_shown⟩ := h.append
  obtain ⟨opening, bytes, rfl, opening_shown, bytes_shown⟩ := front_shown.append
  obtain ⟨w0, rfl, free⟩ := opening_shown.singleton
  obtain ⟨w1, rfl, stop⟩ := last_shown.singleton
  obtain ⟨length, each⟩ := bytes_shown.replicate
  exact ⟨w0, bytes, w1, rfl, free, length, each, stop⟩

/-! ### Read-register -/

/-- The registers once phase 2 of a Read-register of `count` bytes is issued (R156). -/
def secondPhase (e : Engine) (count : Byte) : Engine :=
  { e with st := .awaitAddrAck, phase := .second, cur := ⟨.read, count, .autoEnd⟩, idx := 0 }

/-- A Read-register from the Guard to its phase 2: the pointer byte goes out, and phase 2 is a RESTART
(42_sequencer_and_operations.md R187). -/
theorem readRegister_opens {s : State} {w0 w1 w2 : Word} {more : List Word} {count : Byte} (noInput : s.inputs = [])
    (st : s.eng.st = .awaitBusFree) (first : s.eng.phase = .first)
    (one : phase1 s.eng = some ⟨s.eng.sadd, .write, 1, .softwareEnd⟩)
    (two : phase2 s.eng = some ⟨s.eng.sadd, .read, count, .autoEnd⟩)
    (listed : s.env.status = w0 :: w1 :: w2 :: more) (free : (!(flagsOf s.params.regif w0).busy) = true)
    (pointer : Acks s.params.regif Flags.txis w1)
    (complete : Acks s.params.regif Flags.tc w2) :
    ∃ t, Progress s t [w0, w1, w2] [s.eng.raddr]
        [⟨s.eng.sadd, .write, 1, .softwareEnd⟩, ⟨s.eng.sadd, .read, count, .autoEnd⟩] ∧
      t.eng = secondPhase s.eng count ∧ t.mem = s.mem ∧ t.env.rx = s.env.rx := by
  obtain ⟨t1, issued, eng1, mem1, rx1⟩ := progress_issue noInput listed st one free
  obtain ⟨noInput1, params1⟩ := issued.keeps_noInput noInput
  obtain ⟨t2, sent, eng2, mem2, rx2⟩ := progress_pointer noInput1 (issued.leaves listed) (by rw [eng1]; exact .inl rfl)
    (by rw [eng1]) (by rwa [params1]) (by rw [eng1])
  have upTo := issued.trans sent
  obtain ⟨noInput2, params2⟩ := upTo.keeps_noInput noInput
  rw [eng1, engineAfterByte_softwareEnd rfl rfl] at eng2
  obtain ⟨t3, restarted, eng3, mem3, rx3⟩ := progress_restart (d := ⟨s.eng.sadd, .read, count, .autoEnd⟩) noInput2
    (upTo.leaves listed) (by rw [eng2]) (by rwa [eng2]) (by rw [eng2]; exact two) (by rwa [params2])
  rw [eng2] at eng3
  rw [eng1] at upTo
  exact ⟨t3, upTo.trans restarted, eng3, mem3.trans (mem2.trans mem1), rx3.trans (rx2.trans rx1)⟩

/-! ### The end of a burst -/

/-- The count of a burst that starts is its low byte. -/
theorem toNat_setWidth_len {n : Word} (positive : 1 ≤ n.toInt) (atMost : n.toInt ≤ 255) :
    (n.setWidth 8 : Byte).toNat = n.toNat := by
  have low := toNat_setWidth_of_count positive atMost
  have all := toNat_of_toInt_pos positive
  omega

/-- One more than the count of a write that starts is its low byte. -/
theorem toNat_setWidth_len_add_one {n : Word} (positive : 1 ≤ n.toInt) (atMost : n.toInt ≤ 254) :
    (n.setWidth 8 + 1 : Byte).toNat = n.toNat + 1 := by
  have low := toNat_setWidth_add_one_of_count positive atMost
  have all := toNat_of_toInt_pos positive
  omega

/-- A burst's AUTO_END phase whose bytes have all moved ends with STOPF (42_sequencer_and_operations.md R189). -/
theorem burst_ends {s t : State} {words more : List Word} {w : Word} {sent : List Byte} {d : Dir}
    (h : MovesBytes s d words (w :: more)) (moved : Progress s t words sent [])
    (eng : t.eng = engineAfterByte^[words.length] s.eng) (burst : s.eng.op ≠ .byteRead) (em : s.eng.cur.em = .autoEnd)
    (nonempty : 1 ≤ words.length) (all : s.eng.idx.toNat + words.length = s.eng.cur.count.toNat)
    (stop : Acks s.params.regif Flags.stopf w) :
    ∃ u, Progress s u (words ++ [w]) sent [] ∧
      u.eng = { s.eng with idx := s.eng.cur.count, stopCause := .complete, st := .done } ∧ u.mem = t.mem := by
  obtain ⟨noInput, params⟩ := moved.keeps_noInput h.noInput
  rw [engineAfterByte_iterate em nonempty all] at eng
  obtain ⟨u, ended, engEnd, mem⟩ := progress_stop noInput (moved.leaves h.listed) (by rw [eng]) (by rw [eng])
    (by rwa [params])
  have whole := moved.trans ended
  rw [List.append_nil] at whole
  exact ⟨u, whole, by simp [engEnd, eng, burst], mem⟩

/-! ### The operations from the Guard to DONE -/

/-- The registers of a Read-register of `count` bytes that is DONE. -/
def readDone (e : Engine) (count : Byte) : Engine :=
  { e with st := .done, phase := .second, cur := ⟨.read, count, .autoEnd⟩, idx := count, stopCause := .complete }

section
variable {s : State} {words more : List Word} (noInput : s.inputs = []) (st : s.eng.st = .awaitBusFree)
  (inv : s.eng.StateInv) (listed : s.env.status = words ++ more)
include noInput st inv listed

/-- BYTE_READ from the Guard to DONE (42_sequencer_and_operations.md R190). -/
theorem byteRead_run {x : Word} {rest : List Word} (op : s.eng.op = .byteRead)
    (shown : Shows s.params.regif words (readAcks 1)) (answer : s.env.rx = x :: rest) :
    ∃ t, Progress s t words [s.eng.raddr] [⟨s.eng.sadd, .write, 1, .softwareEnd⟩, ⟨s.eng.sadd, .read, 1, .autoEnd⟩] ∧
      t.eng = { readDone s.eng 1 with data := x.extractLsb' s.params.regif.rxData 8, dataValid := true } ∧
      t.mem = s.mem := by
  simp only [Engine.StateInv, st] at inv
  obtain ⟨-, first, -, -⟩ := inv
  obtain ⟨w0, w1, w2, bytes, w3, rfl, free, pointer, complete, one, each, stop⟩ := shown.readAcks_parts
  obtain ⟨w, rfl⟩ := List.length_eq_one_iff.1 one
  obtain ⟨one, two⟩ := (phaseDescriptors s.eng).1 op
  obtain ⟨t1, opened, eng1, mem1, rx1⟩ := readRegister_opens noInput st first one two listed free pointer complete
  obtain ⟨noInput1, params1⟩ := opened.keeps_noInput noInput
  obtain ⟨t2, delivered, eng2, mem2⟩ := progress_data noInput1 (opened.leaves listed) (by rw [eng1]; exact .inl rfl)
    (by rw [eng1]; rfl) (by rw [params1]; exact each w (.head _)) (by rw [eng1]; exact op) (rx1.trans answer)
  have upTo := opened.trans delivered
  obtain ⟨noInput2, params2⟩ := upTo.keeps_noInput noInput
  rw [eng1, params1, engineAfterByte_autoEnd rfl rfl] at eng2
  obtain ⟨t3, ended, eng3, mem3⟩ := progress_stop noInput2 (upTo.leaves listed) (by rw [eng2]) (by rw [eng2])
    (by rwa [params2])
  refine ⟨t3, upTo.trans ended, ?_, mem3.trans (mem2.trans mem1)⟩
  simp [eng3, eng2, secondPhase, readDone, op]

/-- BURST_READ from the Guard to DONE (42_sequencer_and_operations.md R191). -/
theorem burstRead_run {rx rxMore : List Word} (op : s.eng.op = .burstRead)
    (shown : Shows s.params.regif words (readAcks s.eng.n.toNat)) (same : rx.length = s.eng.n.toNat)
    (answers : s.env.rx = rx ++ rxMore) (clear : BufferClear s.params s.eng s.eng.n.toNat) :
    ∃ t, Progress s t words [s.eng.raddr]
        [⟨s.eng.sadd, .write, 1, .softwareEnd⟩, ⟨s.eng.sadd, .read, s.eng.n.setWidth 8, .autoEnd⟩] ∧
      t.eng = readDone s.eng (s.eng.n.setWidth 8) ∧
      t.mem = fillBuffer s.params s.eng 0 (rx.map (·.extractLsb' s.params.regif.rxData 8)) s.mem := by
  simp only [Engine.StateInv, st, Engine.Admitted, op] at inv
  obtain ⟨⟨positive, atMost⟩, first, -, -⟩ := inv
  have count := toNat_setWidth_len positive atMost
  have number := toNat_of_toInt_pos positive
  obtain ⟨w0, w1, w2, bytes, w3, rfl, free, pointer, complete, length, each, stop⟩ := shown.readAcks_parts
  have listed' : s.env.status = [w0, w1, w2] ++ (bytes ++ w3 :: more) := by simpa using listed
  obtain ⟨t1, opened, eng1, mem1, rx1⟩ := readRegister_opens noInput st first (by simp [phase1, op])
    (count := s.eng.n.setWidth 8) (by simp [phase2, op]) listed' free pointer complete
  obtain ⟨noInput1, params1⟩ := opened.keeps_noInput noInput
  have idx1 : t1.eng.idx.toNat = 0 := by rw [eng1]; rfl
  have count1 : t1.eng.cur.count.toNat = s.eng.n.toNat := by rw [eng1]; exact count
  have base1 : t1.eng.base = s.eng.base := by rw [eng1]; rfl
  have burst1 : t1.eng.op ≠ .byteRead := by simp [eng1, secondPhase, op]
  have moves : MovesBytes t1 .read bytes (w3 :: more) := {
    noInput := noInput1
    dir := by rw [eng1]; rfl
    wait := fun _ => by rw [eng1]; exact .inl rfl
    room := by omega
    listed := opened.leaves listed'
    shown := by rw [params1]; exact each }
  obtain ⟨t2, received, eng2, mem2⟩ := receive_run moves burst1
    (by rw [params1, bufferClear_congr _ base1, count1]; exact clear) (rx1.trans answers) (same.trans length.symm)
  obtain ⟨t3, filled, eng3, mem3⟩ := burst_ends moves received eng2 burst1 (by rw [eng1]; rfl) (by omega) (by omega)
    (by rwa [params1])
  rw [params1, fillBuffer_congr _ base1, idx1, mem1] at mem2
  rw [eng1] at eng3
  exact ⟨t3, opened.trans filled, eng3, mem3.trans mem2⟩

/-- BURST_WRITE from the Guard to DONE (42_sequencer_and_operations.md R192). -/
theorem burstWrite_run (op : s.eng.op = .burstWrite) (shown : Shows s.params.regif words (writeAcks s.eng.n.toNat))
    (clear : BufferClear s.params s.eng s.eng.n.toNat) :
    ∃ t, Progress s t words
        (s.eng.raddr :: (List.range s.eng.n.toNat).map fun k => Memory.read s.mem (bufferAddr s.params s.eng k))
        [⟨s.eng.sadd, .write, s.eng.n.setWidth 8 + 1, .autoEnd⟩] ∧
      t.eng = { s.eng with
        st := .done, cur := ⟨.write, s.eng.n.setWidth 8 + 1, .autoEnd⟩, idx := s.eng.n.setWidth 8 + 1,
        stopCause := .complete } ∧
      t.mem = s.mem := by
  simp only [Engine.StateInv, st, Engine.Admitted, op] at inv
  obtain ⟨⟨positive, atMost⟩, -, -, -⟩ := inv
  have count := toNat_setWidth_len_add_one positive atMost
  obtain ⟨w0, bytes, w1, rfl, free, length, each, stop⟩ := shown.writeAcks_parts
  have listed' : s.env.status = [w0] ++ (bytes ++ w1 :: more) := by simpa using listed
  obtain ⟨t1, opened, eng1, mem1, -⟩ := progress_issue noInput listed'
    (d := ⟨s.eng.sadd, .write, s.eng.n.setWidth 8 + 1, .autoEnd⟩) st (by simp [phase1, op]) free
  obtain ⟨noInput1, params1⟩ := opened.keeps_noInput noInput
  have idx1 : t1.eng.idx = 0 := by rw [eng1]
  have zero : t1.eng.idx.toNat = 0 := by rw [idx1]; rfl
  have count1 : t1.eng.cur.count.toNat = s.eng.n.toNat + 1 := by rw [eng1]; exact count
  have base1 : t1.eng.base = s.eng.base := by rw [eng1]
  have moves : MovesBytes t1 .write bytes (w1 :: more) := {
    noInput := noInput1
    dir := by rw [eng1]
    wait := fun _ => by rw [eng1]; exact .inl rfl
    room := by omega
    listed := opened.leaves listed'
    shown := by rw [params1]; exact each }
  obtain ⟨t2, sent, eng2, mem2⟩ := writePhase_run moves idx1 length
    (by rw [params1, bufferClear_congr _ base1, count1]; exact clear)
  obtain ⟨t3, ended, eng3, mem3⟩ := burst_ends moves sent eng2 (by simp [eng1, op]) (by rw [eng1]) (by omega) (by omega)
    (by rwa [params1])
  rw [params1, bufferAddr_congr _ base1, mem1, eng1] at ended
  rw [eng1] at eng3
  exact ⟨t3, opened.trans ended, eng3, mem3.trans (mem2.trans mem1)⟩

end

/-! ### The operations from their accept -/

/-- What each call returns from DONE (30_encoding.md R87). -/
theorem result_of_done {e : Engine} (done : e.st = .done) (slave addr buffer : Nat) (n : Int) :
    Call.result (statusWord e) (.byteRead slave addr) = some (.byte e.data) ∧
      Call.result (statusWord e) (.burstRead slave addr n buffer) = some .ok ∧
      Call.result (statusWord e) (.burstWrite slave addr n buffer) = some .ok := by
  obtain ⟨byte, bursts, -⟩ := callResultsFollowState e slave addr buffer n
  exact ⟨by rw [byte, if_pos done], bursts done⟩

/-- Settles O40: the accept starts the run of BYTE_READ, and STATUS shows its end. -/
theorem byteReadDeliversByte : Obligations.ByteReadDeliversByte := by
  intro s s1 sadd raddr words more rxMore rx noInput quiescent shown listed answer accepted
  rw [exec_byteRead sadd raddr quiescent] at accepted
  cases accepted
  have five : words.length = 5 := shown.length_eq
  obtain ⟨t, moved, eng, mem⟩ := byteRead_run (s := startGuard (latch .byteRead sadd raddr (cmdWord 1 sadd raddr) s))
    noInput rfl ⟨trivial, rfl, rfl, rfl⟩ listed rfl shown answer
  obtain ⟨result, -⟩ := result_of_done (e := t.eng) (by rw [eng]; rfl) sadd.toNat raddr.toNat 0 0
  refine ⟨t, five ▸ moved.run, ?_, ?_, ?_, ?_, ?_, ?_, result, mem, moved.leaves listed, moved.sent, moved.issued,
    moved.stops⟩ <;> rw [eng] <;> rfl

/-- Settles O41: the accept starts the run of BURST_READ, whose bytes stand where they were written. -/
theorem burstReadFillsBuffer : Obligations.BurstReadFillsBuffer := by
  intro s s1 sadd raddr words more rx rxMore noInput quiescent canonical positive atMost shown listed same answers fits
    accepted clear
  rw [exec_burstRead sadd raddr quiescent, checkCount_starts positive atMost] at accepted
  cases accepted
  have steps : words.length = s.len.toNat + 4 := shown.length_eq.trans (by simp [readAcks])
  obtain ⟨t, moved, eng, mem⟩ := burstRead_run (s := startGuard (latch .burstRead sadd raddr (cmdWord 2 sadd raddr) s))
    noInput rfl ⟨⟨positive, atMost⟩, rfl, rfl, rfl⟩ listed rfl shown same answers clear
  obtain ⟨-, result, -⟩ := result_of_done (e := t.eng) (by rw [eng]; rfl) sadd.toNat raddr.toNat s.buf.toNat s.len.toInt
  refine ⟨t, steps ▸ moved.run, by rw [eng]; rfl, by rw [eng]; rfl, by rw [eng]; rfl,
    by rw [eng]; exact toNat_setWidth_len positive atMost, by rw [eng]; rfl, fun k hk => ?_, fun a outside => ?_,
    moved.leaves listed, moved.sent, moved.issued, moved.stops, result⟩
  · have byte := read_fillBuffer s.params (startGuard (latch .burstRead sadd raddr (cmdWord 2 sadd raddr) s)).eng (i := 0)
      (bytes := rx.map (·.extractLsb' s.params.regif.rxData 8)) canonical (by simpa [same] using fits) (by simpa using hk)
    rw [Nat.zero_add, List.getElem_map] at byte
    rw [mem]
    exact byte
  · rw [mem]
    refine read_fillBuffer_outside _ _ canonical fun k hk => ?_
    rw [List.length_map, same] at hk
    rw [Nat.zero_add]
    exact outside k hk

/-- Settles O42: the accept starts the run of BURST_WRITE, which reads memory and leaves it as it is. -/
theorem burstWriteSendsBuffer : Obligations.BurstWriteSendsBuffer := by
  intro s s1 sadd raddr words more noInput quiescent positive atMost shown listed accepted clear
  rw [exec_burstWrite sadd raddr quiescent, checkCount_starts positive atMost] at accepted
  cases accepted
  have steps : words.length = s.len.toNat + 3 := shown.length_eq.trans (by simp [writeAcks])
  obtain ⟨t, moved, eng, mem⟩ := burstWrite_run (s := startGuard (latch .burstWrite sadd raddr (cmdWord 3 sadd raddr) s))
    noInput rfl ⟨⟨positive, atMost⟩, rfl, rfl, rfl⟩ listed rfl shown clear
  obtain ⟨-, -, result⟩ := result_of_done (e := t.eng) (by rw [eng]) sadd.toNat raddr.toNat s.buf.toNat s.len.toInt
  exact ⟨t, steps ▸ moved.run, by rw [eng], by rw [eng]; rfl, by rw [eng]; rfl,
    by rw [eng]; exact toNat_setWidth_len_add_one positive atMost, by rw [eng], mem, moved.leaves listed, moved.sent,
    moved.issued, moved.stops, result⟩

end Sys2Proof.Machine
end

section
/-! PROOFS. The host's word accesses to the controller's registers, the initialisation, and the two resets
(70_reset_and_hazards.md R250 to R254, R261). -/

namespace Sys2Proof.Machine

/-! ### The controller's registers -/

section
variable {s : State} {rest : List Input} {offset : Byte} (inside : offset.toNat + 4 ≤ s.params.regif.window)
  (apart : WindowsDisjoint s.params)
include inside apart

/-- The host's word write of the controller register at `offset`, as a step. -/
theorem step_writeController {value : Word}
    (first : s.inputs = .write (s.params.regBase + offset.setWidth 32) .word value :: rest) :
    step s = if s.eng.st.busy then .refused .controllerOwned
      else writeControllerRegister offset.toNat value (s.setInputs rest) := by
  rw [step_input first, runInput, hostWrite, setInputs_params, target_controller _ _ inside apart, setInputs_eng]

/-- The host's word read of the controller register at `offset`, as a step. -/
theorem step_readController (first : s.inputs = .read (s.params.regBase + offset.setWidth 32) .word :: rest) :
    step s = if s.eng.st.busy then .refused .controllerOwned
      else readControllerRegister offset.toNat (s.setInputs rest) := by
  rw [step_input first, runInput, hostRead, setInputs_params, target_controller _ _ inside apart, setInputs_eng]

/-- A write the controller takes while the engine is quiescent changes its registers alone. -/
theorem step_setsController {value : Word} {c : Controller} (quiescent : s.eng.st.busy = false)
    (first : s.inputs = .write (s.params.regBase + offset.setWidth 32) .word value :: rest)
    (taken : controllerWritten s.params.regif offset.toNat value s.ctl = .ok c) :
    step s = .next ((s.setInputs rest).setCtl c) := by
  rw [step_writeController inside apart first, if_neg (by simp [quiescent]), writeControllerRegister, setInputs_params,
    setInputs_ctl, taken]

end

/-- Settles O57: the access goes to the controller, which a busy engine owns. -/
theorem controllerIsOwnedWhileBusy : Obligations.ControllerIsOwnedWhileBusy := by
  intro s rest offset busy inside apart
  refine ⟨fun value first => ?_, fun first => ?_⟩
  · rw [step_writeController inside apart first, if_pos busy]
  · rw [step_readController inside apart first, if_pos busy]

/-! ### Initialisation -/

theorem controllerWritten_cr1 (b : Binding) (value : Word) (c : Controller) :
    controllerWritten b b.offset.cr1.toNat value c = .ok { c with cr1 := value } := if_pos rfl

/-- TIMINGR takes a write while PE = 0; its offset is none of those tested before it. -/
theorem controllerWritten_timingr {b : Binding} (wf : b.WellFormed) (value : Word) {c : Controller}
    (disabled : enabled b c = false) :
    controllerWritten b b.offset.timingr.toNat value c = .ok { c with timingr := value } := by
  have distinct := wf.offsets
  simp only [Offsets.all, List.nodup_cons, List.mem_cons, not_or] at distinct
  obtain ⟨⟨-, -, -, cr1, -⟩, ⟨-, -, cr2, -⟩, ⟨-, oar1, -⟩, ⟨oar2, -⟩, -⟩ := distinct
  have other {o : Byte} (ne : o ≠ b.offset.timingr) : b.offset.timingr.toNat ≠ o.toNat := fun same =>
    ne (BitVec.eq_of_toNat_eq same.symm)
  rw [controllerWritten, if_neg (other cr1), if_neg (other cr2), if_neg (other oar1), if_neg (other oar2), if_pos rfl,
    if_neg (by simp [disabled])]

/-- With CR1 = 0 the controller is disabled, in any binding. -/
theorem enabled_of_cr1_zero (b : Binding) {c : Controller} (zero : c.cr1 = 0) : enabled b c = false := by
  simp [enabled, zero]

/-- CR1 = PE alone enables the controller and nothing else (R254). -/
theorem initialised_of_cr1_pe {b : Binding} (wf : b.WellFormed) {c : Controller} (cr1 : c.cr1 = bit b.pe)
    (timeoutr : c.timeoutr = 0) : initialised b c = true := by
  obtain ⟨fits, noEnable⟩ := wf.enable
  have on : enabled b c = true := by simp [enabled, cr1, getLsbD_bit, fits]
  have quiet : c.cr1 &&& b.enables = 0 := by
    apply BitVec.eq_of_getLsbD_eq
    intro i hi
    by_cases at_pe : i = b.pe
    · simp [at_pe, noEnable]
    · simp [cr1, getLsbD_bit, at_pe]
  simp [initialised, on, quiet, timeoutr]

/-- Settles O54: three writes the controller takes, the middle one while CR1 = 0. -/
theorem initialisationReadiesController : Obligations.InitialisationReadiesController := by
  intro s quiescent first wf apart timeoutr
  have cr1 : s.params.regif.offset.cr1.toNat + 4 ≤ s.params.regif.window := (wf.inWindow _ (by simp [Offsets.all])).2
  have timingr : s.params.regif.offset.timingr.toNat + 4 ≤ s.params.regif.window :=
    (wf.inWindow _ (by simp [Offsets.all])).2
  have disables := step_setsController cr1 apart quiescent first (controllerWritten_cr1 _ _ _)
  have times := step_setsController (s := (s.setInputs (initialise s.params).tail).setCtl { s.ctl with cr1 := 0 })
    timingr apart quiescent rfl (controllerWritten_timingr wf _ (enabled_of_cr1_zero _ rfl))
  have enables := step_setsController (s := (s.setInputs (initialise s.params).tail.tail).setCtl
    { s.ctl with cr1 := 0, timingr := s.params.timing }) cr1 apart quiescent rfl (controllerWritten_cr1 _ _ _)
  refine ⟨_, (run_succ 2 disables).trans ((run_succ 1 times).trans (run_succ 0 enables)), rfl, ?_, rfl, rfl⟩
  have ready := initialised_of_cr1_pe wf (c := { s.ctl with cr1 := bit s.params.regif.pe, timingr := s.params.timing })
    rfl timeoutr
  simpa [State.hostReady, quiescent] using ready

/-! ### The resets -/

/-- Settles O46: no operation runs after reset, and memory is empty. -/
theorem resetMeetsInvariant : Obligations.ResetMeetsInvariant :=
  ⟨reset_engineInv, Memory.wf_nil, fun _ listed => absurd listed List.not_mem_nil, Nat.two_pow_pos _, bufferFits_quiescent rfl⟩

/-- Settles O47: the step is `resetEngine`, whatever the engine was doing. -/
theorem resetClearsEngine : Obligations.ResetClearsEngine := by
  refine ⟨fun s rest first => ?_, rfl, rfl, rfl, rfl, by decide, rfl, rfl⟩
  exact ⟨resetEngine (s.setInputs rest), step_input first, rfl, rfl, rfl, rfl, rfl, rfl, rfl, rfl, rfl⟩

/-- Settles O48: the step writes the binding's reset values, which by default are R40's. -/
theorem controllerResetRestoresRegisters : Obligations.ControllerResetRestoresRegisters :=
  ⟨fun _ _ first => step_input first, rfl, enabled_of_cr1_zero _ rfl, by decide⟩

end Sys2Proof.Machine
end

section
/-! PROOFS. The words of the spec's test vectors (95_test_vectors.md 2.1, 2.2), by the round trip of the codes. -/

namespace Sys2Proof.Machine

/-- A table word decodes to what its code decodes to in the default binding, and to nothing where the code is rejected. -/
theorem decodeTableWord_eq (nbits : Nat) {w : Nat} (small : w < 2 ^ 41) :
    decodeTableWord nbits w = (decode .stm32f3 (tableCode nbits w)).toOption := by
  rw [decodeTableWord, tableBytes_eq nbits small, decodeBytes_bytes]
  cases decode .stm32f3 (tableCode nbits w) with
  | ok | error => rfl

/-- A table word that carries the code of a well-formed instruction decodes to that instruction. -/
theorem decodeTableWord_of_encode {nbits w : Nat} {i : Instr} (small : w < 2 ^ 41)
    (carries : tableCode nbits w = encode .stm32f3 i) (admitted : i.wellFormed .stm32f3 = true) :
    decodeTableWord nbits w = some i := by
  rw [decodeTableWord_eq nbits small, carries, decode_encode wellFormed_stm32f3 admitted]
  rfl

/-- A command word with a reserved bit or a reserved OP decodes to nothing as a table word (R81, R83). -/
theorem decodeTableWord_of_unassigned {w : Nat} (small : w < 2 ^ 32)
    (unassigned : BitVec.ofNat 32 w &&& 0xFF0080F0 ≠ 0 ∨
      (BitVec.ofNat 32 w &&& 0xF ≠ 1 ∧ BitVec.ofNat 32 w &&& 0xF ≠ 2 ∧ BitVec.ofNat 32 w &&& 0xF ≠ 3)) :
    decodeTableWord 32 w = none := by
  obtain ⟨r, rejected⟩ := (commandDecodesByItsFields (BitVec.ofNat 32 w)).1 unassigned
  rw [decodeTableWord_eq 32 (by omega), tableCode, if_pos ⟨le_rfl, small⟩, decode, rejected]
  rfl

/-- Settles O6: each word is the code of the instruction named, except 0x00008001, whose reserved bit 15 is set. -/
theorem specWordsDecode : Obligations.SpecWordsDecode := by
  refine ⟨?byteRead, ?burstRead, ?burstWrite, ?reserved, ?writeCtrl, ?triggerStart, ?triggerStop, ?txWrite, ?clearNack⟩
  case reserved => exact decodeTableWord_of_unassigned (by decide) (.inl (by decide))
  all_goals exact decodeTableWord_of_encode (by decide) (by decide) (by decide)

end Sys2Proof.Machine
end
